-- ==== Sys2Proof/Word.lean ====
section
/-! DEFINITION. The value types of the TDES core (spec/00_scope.md R9, R11 to R13, R15; spec/30_encoding.md R80 to R85).
Every quantity is an unsigned value of a stated width (R11). -/

namespace Sys2Proof

/-- A byte: `u8` (R11). -/
abbrev Byte := BitVec 8

/-- A Block or a Key, 8 bytes: `u64` (R80, R81). -/
abbrev Block := BitVec 64

/-- A HalfBlock, 4 bytes: `u32` (R85). -/
abbrev HalfBlock := BitVec 32

/-- An ExpandedBlock, 6 bytes: `u48` (R84). -/
abbrev ExpandedBlock := BitVec 48

/-- A RoundKey, 6 bytes: `u48` (R84). -/
abbrev RoundKey := BitVec 48

/-- The output of permuted choice 1, 56 bits packed in 7 bytes (R83). -/
abbrev KeyHalves := BitVec 56

/-- One of the halves `C`, `D` of the key schedule: `u28` (R83). -/
abbrev KeyHalf := BitVec 28

/-- A register-space offset: the core's address port is six bits wide, so `0x00..0x3F` are all the
offsets there are (spec/20_memory.md R50, R55). -/
abbrev Offset := BitVec 6

/-- An ordered sequence of exactly 16 round keys, indexed 0..15 (spec/10_state.md R25). -/
abbrev KeySchedule := Vector RoundKey 16

/-- A slot `k` in {1, 2, 3}: one of the three keys, or one of the three key-schedule banks (R15). -/
inductive Slot where
  | k1
  | k2
  | k3
deriving DecidableEq, Repr

/-- Three values, one for each slot. -/
structure PerSlot (α : Type) where
  /-- the value of slot 1 -/
  k1 : α
  /-- the value of slot 2 -/
  k2 : α
  /-- the value of slot 3 -/
  k3 : α
deriving DecidableEq, Repr

/-- A TripleKeySet: "three KeySchedules {K1,K2,K3}" (R5, spec/42_key_schedule.md R156). -/
abbrev TripleKeySet := PerSlot KeySchedule

end Sys2Proof
end

