-- ==== Sys2Proof/Config.lean ====
section
/-! DEFINITION. What is fixed for the core (spec/00_scope.md R9, R10; the offsets of spec/20_memory.md R51), and the
free values: constants with no body for what the spec leaves unspecified (spec/93_implementation_defined.md U1, U2). -/

namespace Sys2Proof.Config

/-- R9: `BLOCK_BYTES`. -/
def blockBytes : Nat := 8

/-- R9: `HALF_BYTES`. -/
def halfBytes : Nat := 4

/-- R9: `EXP_BYTES`. -/
def expBytes : Nat := 6

/-- R9: `RK_BYTES`. -/
def rkBytes : Nat := 6

/-- R9: `N_ROUNDS`. -/
def nRounds : Nat := 16

/-- R9: `KEY_BYTES`. -/
def keyBytes : Nat := 8

/-- R9: `CD_BITS`. -/
def cdBits : Nat := 56

/-- R9: `N_SCHED`. -/
def nSched : Nat := 3

/-- R9: `SECRET_BYTES`. -/
def secretBytes : Nat := 24

/-- R9: `N_SBOX`. -/
def nSbox : Nat := 8

/-- R10: `REG_SPACE`, the size of the register space in bytes. -/
def regSpace : Nat := 64

/-- R51: `CMD`. -/
abbrev cmdOffset : Offset := 0x28#6

/-- R51: `STATUS`. -/
abbrev statusOffset : Offset := 0x29#6

/-- FREE VALUE (U1; notes/assumptions/5.md): the byte that a read of `DOUT` returns while a cipher command is pending
(R24, R52), at the free-value stamp of the read. It has no body: nothing is known of it. -/
opaque unspecifiedDout : Nat → Byte

/-- FREE VALUE (U2; notes/assumptions/4.md): the content of a key-schedule bank after reset, after `SRST` and during a
`KGEN` on it (R25, R36, R235), at the free-value stamp of that event. It has no body: nothing is known of it. -/
opaque unspecifiedBank : Nat → Slot → KeySchedule

end Sys2Proof.Config
end

