-- ==== Sys2Proof/Syntax.lean ====
section
/-! DEFINITION. The commands: what plays the part of an instruction set (spec/00_scope.md R2), one constructor for each
of the fourteen rows of spec/opcode_table.json (spec/30_encoding.md R78), and the fields of the one command format C
(R75). -/

namespace Sys2Proof

/-- The fourteen commands (R78). A command carries no data: its operand registers are implied (R75, R77). -/
inductive Instr where
  /-- `CLRE`, 0x01: clear error (R186) -/
  | clre
  /-- `SRST`, 0x02: soft reset (R187) -/
  | srst
  /-- `KGENA`, 0x10: generate all three schedules (R156) -/
  | kgena
  /-- `KGEN1`, 0x11: generate schedule 1 (R155) -/
  | kgen1
  /-- `KGEN2`, 0x12: generate schedule 2 (R155) -/
  | kgen2
  /-- `KGEN3`, 0x13: generate schedule 3 (R155) -/
  | kgen3
  /-- `DESE1`, 0x21: DES encryption with bank 1 (R130) -/
  | dese1
  /-- `DESE2`, 0x22: DES encryption with bank 2 (R130) -/
  | dese2
  /-- `DESE3`, 0x23: DES encryption with bank 3 (R130) -/
  | dese3
  /-- `DESD1`, 0x31: DES decryption with bank 1 (R131) -/
  | desd1
  /-- `DESD2`, 0x32: DES decryption with bank 2 (R131) -/
  | desd2
  /-- `DESD3`, 0x33: DES decryption with bank 3 (R131) -/
  | desd3
  /-- `TDESE`, 0x40: Triple-DES encryption (R173) -/
  | tdese
  /-- `TDESD`, 0x50: Triple-DES decryption (R174) -/
  | tdesd
deriving DecidableEq, Repr

/-- `KGENk` as a function of the slot, the spelling `KGEN(k)` of R76. -/
def Instr.kgen : Slot → Instr
  | .k1 => .kgen1
  | .k2 => .kgen2
  | .k3 => .kgen3

/-- `DESEk` as a function of the slot, the spelling `DESE(k)` of R76. -/
def Instr.dese : Slot → Instr
  | .k1 => .dese1
  | .k2 => .dese2
  | .k3 => .dese3

/-- `DESDk` as a function of the slot, the spelling `DESD(k)` of R76. -/
def Instr.desd : Slot → Instr
  | .k1 => .desd1
  | .k2 => .desd2
  | .k3 => .desd3

/-- The two fields of format C (R75). -/
structure CommandFields where
  /-- bits 7:4, the operation group -/
  op : BitVec 4
  /-- bits 3:0, the slot, the control function, or 0 -/
  arg : BitVec 4
deriving DecidableEq, Repr

/-- What decoding a byte gives (R76): one of the fourteen commands, or `illegal`. -/
inductive Decoded where
  /-- the byte is one of the fourteen commands -/
  | command (i : Instr)
  /-- the byte is one of the 242 illegal values (R79) -/
  | illegal
deriving DecidableEq, Repr

end Sys2Proof
end

