-- ==== Sys2Proof/WellFormed.lean ====
section
/-! DEFINITION. Well-formedness: of the fields of a command (spec/30_encoding.md R75, R76), and of a permutation table
(R86; spec/40_permutation.md R102, spec/60_exceptions.md R205: a call with a table of the wrong shape must not be
statable). An `Instr` has no operands, so every term of it is well-formed. -/

namespace Sys2Proof

/-- The values of `arg` that each operation group allows (R75, R76): the control functions 1 and 2 for group 0, the
slots for groups 1 to 3 (with 0 for `KGENA`), 0 for groups 4 and 5, and none for the other groups. -/
def CommandFields.wf (f : CommandFields) : Bool :=
  match f.op.toNat with
  | 0 => f.arg == 1#4 || f.arg == 2#4
  | 1 => decide (f.arg ≤ 3#4)
  | 2 => decide (1#4 ≤ f.arg) && decide (f.arg ≤ 3#4)
  | 3 => decide (1#4 ≤ f.arg) && decide (f.arg ≤ 3#4)
  | 4 => f.arg == 0#4
  | 5 => f.arg == 0#4
  | _ => false

/-- The precondition of `permute` (R102): the length equals the output width and every entry is a 1-based index into
the input (R86). -/
def tableWf (nIn nOut : Nat) (entries : List Nat) : Bool :=
  entries.length == nOut && entries.all fun t => decide (1 ≤ t) && decide (t ≤ nIn)

/-- A permutation table from `nIn` bits to `nOut` bits. It carries its own check, so that a table of the wrong shape
cannot be passed to `permute` (R102, R205). -/
structure Table (nIn nOut : Nat) where
  /-- the entries `T[0], T[1], ...`, 1-based indices into the input (R86) -/
  entries : List Nat
  /-- R102's precondition -/
  wf : tableWf nIn nOut entries = true

theorem Table.length_entries {nIn nOut : Nat} (T : Table nIn nOut) : T.entries.length = nOut := by
  have h := T.wf
  simp only [tableWf, Bool.and_eq_true, beq_iff_eq] at h
  exact h.1

/-- An S-box table: 4 rows of 16 columns of 4-bit values (R87); the shape is in the type. -/
abbrev SBox := Vector (Vector (BitVec 4) 16) 4

end Sys2Proof
end

