-- ==== Sys2Proof/Decode.lean ====
section
/-! DEFINITION. Decoding the command byte, total on all 256 values (spec/30_encoding.md R75, R76, R79), and encoding,
written from the table of R78. -/

namespace Sys2Proof

/-- The fields of a command byte: `op` = bits 7:4, `arg` = bits 3:0 (R75). -/
def fieldsOf (c : Byte) : CommandFields := ⟨c.extractLsb' 4 4, c.extractLsb' 0 4⟩

/-- The byte of two fields, the inverse of `fieldsOf` (R75). -/
def byteOfFields (f : CommandFields) : Byte := f.op ++ f.arg

/-- R76, `decode(c)`, on the fields. -/
def decodeFields (f : CommandFields) : Decoded :=
  match f.op.toNat, f.arg.toNat with
  | 0x0, 0x1 => .command .clre
  | 0x0, 0x2 => .command .srst
  | 0x1, 0x0 => .command .kgena
  | 0x1, 0x1 => .command (.kgen .k1)
  | 0x1, 0x2 => .command (.kgen .k2)
  | 0x1, 0x3 => .command (.kgen .k3)
  | 0x2, 0x1 => .command (.dese .k1)
  | 0x2, 0x2 => .command (.dese .k2)
  | 0x2, 0x3 => .command (.dese .k3)
  | 0x3, 0x1 => .command (.desd .k1)
  | 0x3, 0x2 => .command (.desd .k2)
  | 0x3, 0x3 => .command (.desd .k3)
  | 0x4, 0x0 => .command .tdese
  | 0x5, 0x0 => .command .tdesd
  | _, _ => .illegal

/-- R76: `decode(c : u8)`. -/
def decode (c : Byte) : Decoded := decodeFields (fieldsOf c)

/-- The byte of each command, from the first column of the table of R78. -/
def encode : Instr → Byte
  | .clre => 0x01#8
  | .srst => 0x02#8
  | .kgena => 0x10#8
  | .kgen1 => 0x11#8
  | .kgen2 => 0x12#8
  | .kgen3 => 0x13#8
  | .dese1 => 0x21#8
  | .dese2 => 0x22#8
  | .dese3 => 0x23#8
  | .desd1 => 0x31#8
  | .desd2 => 0x32#8
  | .desd3 => 0x33#8
  | .tdese => 0x40#8
  | .tdesd => 0x50#8

/-- The instruction of a decoding, if there is one. -/
def Decoded.instr? : Decoded → Option Instr
  | .command i => some i
  | .illegal => none

/-- The instruction that the decoder reads from the word `w` of a row of spec/opcode_table.json of `nbits` bits. A
command is one byte (R75), so the word's low byte is the command byte; the bits from `nbits` up are 0. -/
def decodeTableWord (nbits w : Nat) : Option Instr := (decode (BitVec.ofNat 8 (w % 2 ^ nbits))).instr?

end Sys2Proof
end

