-- ==== Sys2Proof/Machine/State.lean ====
section
/-! DEFINITION. The state of the core (spec/10_state.md R21 to R29: the whole of it), the inputs that wait at its host
port, and the reasons a step can stop. State is plain data. -/

namespace Sys2Proof.Machine

/-- `STATUS.ERR` (R29): the code of the first refusal since it was last 0. The codes 4 to 7 are never produced, so they
have no constructor (spec/93_implementation_defined.md U5). -/
inductive ErrCode where
  /-- 0: no refusal recorded -/
  | none
  /-- 1: `ERR_ILLEGAL` (spec/60_exceptions.md R204) -/
  | illegal
  /-- 2: `ERR_NOKEY` (R206) -/
  | noKey
  /-- 3: `ERR_BUSY` (R207) -/
  | busy
deriving DecidableEq, Repr

/-- The register `STATUS`, by its fields (R27). Every one of its eight bits is defined and the host cannot write it, so
the fields are the one home of its content and the byte the host reads is computed from them (`Status.byte`). -/
structure Status where
  /-- bit 0: an operation command has been accepted and has not completed -/
  busy : Bool
  /-- bit 1: the last accepted operation command has completed -/
  done : Bool
  /-- bits 2 to 4, `KV1..KV3`: bank `KS[k]` holds a generated schedule -/
  kv : PerSlot Bool
  /-- bits 7:5 -/
  err : ErrCode
deriving DecidableEq, Repr

/-- One step of the host (R20): a byte access of the register space (spec/20_memory.md R52, R53) or the assertion of the
reset input (spec/70_reset_and_hazards.md R230). -/
inductive HostOp where
  /-- `MemRead(a, 1)` -/
  | read (a : Offset)
  /-- `MemWrite(a, 1, v)` -/
  | write (a : Offset) (v : Byte)
  /-- the host asserts reset -/
  | reset
deriving DecidableEq, Repr

/-- One turn of an execution: which of the two agents takes the next step (R20, R64; notes/assumptions/1.md). -/
inductive Turn where
  /-- the host port presents this access -/
  | host (op : HostOp)
  /-- the engine is scheduled -/
  | engine
deriving DecidableEq, Repr

/-- The state of the core (`key` to `status`, R21) and the model's own fields (`turns`, `reads`, `draws`). -/
structure State where
  /-- `KEY[0..23]`: the 24-byte secret (R22) -/
  key : Vector Byte 24
  /-- `DIN[0..7]`: the input block (R23) -/
  din : Vector Byte 8
  /-- `DOUT[0..7]`: the output block of the last completed cipher command (R24) -/
  dout : Vector Byte 8
  /-- `KS[1..3][0..15]`: the three key schedules (R25) -/
  ks : TripleKeySet
  /-- `CMD`: the last accepted operation command (R26) -/
  cmd : Byte
  /-- `STATUS` (R27) -/
  status : Status
  /-- MODEL'S OWN (notes/assumptions/1.md): the turns still to come, first one first: the accesses that the host port
  presents, in port order, interleaved with the turns of the engine (R64, R237) -/
  turns : List Turn
  /-- MODEL'S OWN (notes/assumptions/7.md): the bytes that host reads have returned, last one first -/
  reads : List Byte
  /-- MODEL'S OWN (notes/assumptions/6.md): the stamp of the next free value -/
  draws : Nat
deriving DecidableEq, Repr

/-- Why the machine stops. -/
inductive Fault where
  /-- Raised by the engine's completion step (`complete`) when `BUSY = 1` and `CMD` holds no operation command. R236:
  "`CMD` can only hold an operation command while `BUSY = 1`", so no run reaches it. Safe: the model stops in a state
  that the hardware does not have (notes/assumptions/9.md). -/
  | noPendingOperation
deriving DecidableEq, Repr

/-- Why an instruction has no meaning here. The core's own refusals (spec/60_exceptions.md R203) are not these: they are
next states. -/
inductive Refusal where
  /-- Raised by an arm of `exec` whose instruction is not modelled yet: there is none. Safe. -/
  | notModelled (mnemonic : String)
deriving DecidableEq, Repr

/-- The machine right after reset (R36). `KS` is unspecified: a free value. No host access is waiting. -/
def State.reset : State where
  key := Vector.replicate 24 0#8
  din := Vector.replicate 8 0#8
  dout := Vector.replicate 8 0#8
  ks := ⟨Config.unspecifiedBank 0 .k1, Config.unspecifiedBank 0 .k2, Config.unspecifiedBank 0 .k3⟩
  cmd := 0x00#8
  status := ⟨false, false, ⟨false, false, false⟩, .none⟩
  turns := []
  reads := []
  draws := 1

end Sys2Proof.Machine
end

