-- ==== Sys2Proof/Machine/Operands.lean ====
section
/-! DEFINITION. Operand assembly: the slot and what it selects (spec/30_encoding.md R77), and the packing of byte buffers,
most significant byte first (spec/00_scope.md R11, spec/20_memory.md R57). -/

namespace Sys2Proof

/-- The three slots. -/
def Slot.all : List Slot := [.k1, .k2, .k3]

/-- The number `8(k-1)`: where the key bytes of slot `k` begin in `KEY` (R22, R77). -/
def Slot.keyBase : Slot → Nat
  | .k1 => 0
  | .k2 => 8
  | .k3 => 16

theorem Slot.keyBase_le (k : Slot) : k.keyBase ≤ 16 := by cases k <;> decide

/-- The value of slot `k`. -/
def PerSlot.get {α : Type} (p : PerSlot α) : Slot → α
  | .k1 => p.k1
  | .k2 => p.k2
  | .k3 => p.k3

/-- `p` with the value of slot `k` replaced. -/
def PerSlot.set {α : Type} (p : PerSlot α) (k : Slot) (v : α) : PerSlot α :=
  match k with
  | .k1 => { p with k1 := v }
  | .k2 => { p with k2 := v }
  | .k3 => { p with k3 := v }

/-- Is it an operation command, one that sets `BUSY` and completes later (R78, the column "kind")? -/
def Instr.isOperation : Instr → Bool
  | .clre => false
  | .srst => false
  | .kgena => true
  | .kgen1 => true
  | .kgen2 => true
  | .kgen3 => true
  | .dese1 => true
  | .dese2 => true
  | .dese3 => true
  | .desd1 => true
  | .desd2 => true
  | .desd3 => true
  | .tdese => true
  | .tdesd => true

/-- The banks whose valid flag the command needs: the set `need` of spec/70_reset_and_hazards.md R234. -/
def Instr.needs : Instr → List Slot
  | .clre => []
  | .srst => []
  | .kgena => []
  | .kgen1 => []
  | .kgen2 => []
  | .kgen3 => []
  | .dese1 => [.k1]
  | .dese2 => [.k2]
  | .dese3 => [.k3]
  | .desd1 => [.k1]
  | .desd2 => [.k2]
  | .desd3 => [.k3]
  | .tdese => [.k1, .k2, .k3]
  | .tdesd => [.k1, .k2, .k3]

/-- The banks that the command generates (R78, the column "writes at completion"). -/
def Instr.generates : Instr → List Slot
  | .clre => []
  | .srst => []
  | .kgena => [.k1, .k2, .k3]
  | .kgen1 => [.k1]
  | .kgen2 => [.k2]
  | .kgen3 => [.k3]
  | .dese1 => []
  | .dese2 => []
  | .dese3 => []
  | .desd1 => []
  | .desd2 => []
  | .desd3 => []
  | .tdese => []
  | .tdesd => []

/-- `be(B)` of an 8-byte buffer (R11): byte 0 is the most significant. -/
def blockOfBytes (b : Vector Byte 8) : Block :=
  b[0] ++ b[1] ++ b[2] ++ b[3] ++ b[4] ++ b[5] ++ b[6] ++ b[7]

/-- `byte(V, 8, i)` (R11): the slice `V[8(8-i)-1 : 8(8-i-1)]`. -/
def byteOfBlock (v : Block) (i : Nat) : Byte := v.extractLsb' (8 * (7 - i)) 8

/-- The eight bytes of a block, byte 0 first. -/
def bytesOfBlock (v : Block) : Vector Byte 8 := Vector.ofFn fun i => byteOfBlock v i.val

end Sys2Proof

namespace Sys2Proof.Machine

/-- `KEY[8(k-1) .. 8(k-1)+7]` (R22, R77). -/
def State.keyBytes (s : State) (k : Slot) : Vector Byte 8 :=
  Vector.ofFn fun i => s.key[k.keyBase + i.val]'(by have := k.keyBase_le; omega)

/-- The DES key of slot `k`: `Kk = be(KEY[8(k-1) .. 8(k-1)+7])` (R22). -/
def State.keyBlock (s : State) (k : Slot) : Block := blockOfBytes (s.keyBytes k)

/-- The input block `be(DIN[0..7])` (R23). -/
def State.dinBlock (s : State) : Block := blockOfBytes s.din

/-- The output block `be(DOUT[0..7])` (R24). -/
def State.doutBlock (s : State) : Block := blockOfBytes s.dout

/-- `KS[k]` (R25). -/
def State.bank (s : State) (k : Slot) : KeySchedule := s.ks.get k

end Sys2Proof.Machine
end

