-- ==== Sys2Proof/Machine/Flags.lean ====
section
/-! DEFINITION. `STATUS`, the only condition codes of the core (spec/10_state.md R27 to R30): the byte that the host reads,
and the events that change its fields. No command sets a flag from its data (R30). -/

namespace Sys2Proof.Machine

/-- The value of `ERR` (R29). -/
def ErrCode.code : ErrCode → BitVec 3
  | .none => 0#3
  | .illegal => 1#3
  | .noKey => 2#3
  | .busy => 3#3

/-- `STATUS` as the host reads it (R27): `ERR` in bits 7:5, `KV3`, `KV2`, `KV1` in bits 4, 3, 2, `DONE` in bit 1, `BUSY`
in bit 0. -/
def Status.byte (st : Status) : Byte :=
  st.err.code ++ BitVec.ofBool st.kv.k3 ++ BitVec.ofBool st.kv.k2 ++ BitVec.ofBool st.kv.k1 ++
    BitVec.ofBool st.done ++ BitVec.ofBool st.busy

/-- The reset value of `STATUS` (R36). -/
def Status.atReset : Status := ⟨false, false, ⟨false, false, false⟩, .none⟩

/-- The acceptance of an operation command (R234): `BUSY <- 1`, `DONE <- 0`. -/
def Status.accept (st : Status) : Status := { st with busy := true, done := false }

/-- The completion of an operation command (R236): `BUSY <- 0`, `DONE <- 1`. -/
def Status.finish (st : Status) : Status := { st with busy := false, done := true }

/-- `KVk <- b`. -/
def Status.setKv (st : Status) (k : Slot) (b : Bool) : Status := { st with kv := st.kv.set k b }

/-- The effect of a refusal on `ERR` (spec/60_exceptions.md R203): the first code recorded is kept. -/
def Status.recordErr (st : Status) (code : ErrCode) : Status :=
  if st.err = .none then { st with err := code } else st

/-- `ERR <- 0` (spec/44_control.md R186). -/
def Status.clearErr (st : Status) : Status := { st with err := .none }

end Sys2Proof.Machine
end

