-- ==== Sys2Proof/Machine/Ops.lean ====
section
/-! DEFINITION. The named operations over the state that the meanings share: taking a refusal (the core's one exceptional
mechanism, spec/60_exceptions.md R200, R203; there is nothing to return from, R209), reset, the acceptance and the end of
an operation command, and the reads and writes of the registers by the host. -/

namespace Sys2Proof.Machine

/-- What every step and every meaning answers. -/
abbrev Result := Host.Outcome State Fault Refusal

/-! ### The registers -/

/-- `KS[k] <- S` (R25). -/
def State.setBank (s : State) (k : Slot) (S : KeySchedule) : State := { s with ks := s.ks.set k S }

/-- `KVk <- b` (R27). -/
def State.setKv (s : State) (k : Slot) (b : Bool) : State := { s with status := s.status.setKv k b }

/-- `DOUT[i] <- byte(v, 8, i)` for `i` in 0..7 (R236). -/
def State.setDout (s : State) (v : Block) : State := { s with dout := bytesOfBlock v }

/-- `KEY[i] <- v` (R53). -/
def State.setKeyByte (s : State) (i : Nat) (v : Byte) : State := { s with key := s.key.setIfInBounds i v }

/-- `DIN[i] <- v` (R53). -/
def State.setDinByte (s : State) (i : Nat) (v : Byte) : State := { s with din := s.din.setIfInBounds i v }

/-- The turns that are still to come. -/
def State.setTurns (s : State) (ts : List Turn) : State := { s with turns := ts }

/-! ### Refusal and reset -/

/-- `raise Refuse(code)` (R203): nothing changes but `ERR`, and `ERR` only while it is 0. -/
def State.refuse (s : State) (code : ErrCode) : State := { s with status := s.status.recordErr code }

/-- `ERR <- 0` (R186). -/
def State.clearErr (s : State) : State := { s with status := s.status.clearErr }

/-- Every piece of state takes its reset value (R36, R187, R230). `KS` takes a free value drawn now. The host's side (the
waiting accesses, the bytes it has read) is no state of the core and stays (notes/assumptions/8.md). -/
def State.resetCore (s : State) : State where
  key := Vector.replicate 24 0#8
  din := Vector.replicate 8 0#8
  dout := Vector.replicate 8 0#8
  ks := ⟨Config.unspecifiedBank s.draws .k1, Config.unspecifiedBank s.draws .k2, Config.unspecifiedBank s.draws .k3⟩
  cmd := 0x00#8
  status := Status.atReset
  turns := s.turns
  reads := s.reads
  draws := s.draws + 1

/-! ### The life cycle of an operation command -/

/-- The acceptance of the operation command `c` (R234): `CMD <- c`, `BUSY <- 1`, `DONE <- 0`. -/
def State.accept (s : State) (c : Byte) : State := { s with cmd := c, status := s.status.accept }

/-- Bank `k` is being generated (R234, R235): `KVk <- 0`, and the content of the bank is unspecified from now on, a free
value (notes/assumptions/4.md). -/
def State.invalidateBank (s : State) (k : Slot) : State :=
  (s.setBank k (Config.unspecifiedBank s.draws k)).setKv k false

/-- The banks of the list are being generated. -/
def State.invalidate (s : State) (gen : List Slot) : State :=
  let t := gen.foldl State.invalidateBank s
  { t with draws := s.draws + 1 }

/-- The end of the completion step (R236): `BUSY <- 0`, `DONE <- 1`. -/
def State.finish (s : State) : State := { s with status := s.status.finish }

/-- Is `KVk = 1`? -/
def State.valid (s : State) (k : Slot) : Bool := s.status.kv.get k

/-- Issuing a key-schedule command (R155, R156, R234): it needs `BUSY = 0` only. -/
def issueKeyCommand (c : Byte) (gen : List Slot) (s : State) : Result :=
  if s.status.busy then .next (s.refuse .busy)
  else .next ((s.invalidate gen).accept c)

/-- Issuing a cipher command (R130, R131, R173, R174, R234): it needs `BUSY = 0` and `KVk = 1` for the banks it reads. -/
def issueCipherCommand (c : Byte) (need : List Slot) (s : State) : Result :=
  if s.status.busy then .next (s.refuse .busy)
  else if need.all s.valid then .next (s.accept c)
  else .next (s.refuse .noKey)

/-! ### The host's reads and writes of the registers -/

/-- "CMD is a cipher command": `CMD[7:4]` in {0x2, 0x3, 0x4, 0x5} (R52). -/
def isCipherByte (c : Byte) : Bool :=
  decide (c.extractLsb' 4 4 = 0x2#4 ∨ c.extractLsb' 4 4 = 0x3#4 ∨ c.extractLsb' 4 4 = 0x4#4 ∨ c.extractLsb' 4 4 = 0x5#4)

/-- Is a cipher command pending? -/
def State.cipherPending (s : State) : Bool := s.status.busy && isCipherByte s.cmd

/-- `MemRead(a, 1)` (R52): the byte at offset `a`. While a cipher command is pending a byte of `DOUT` is a free value
(R24; notes/assumptions/5.md). -/
def memRead (s : State) (a : Offset) : Byte :=
  if h : a.toNat ≤ 0x17 then s.key[a.toNat]
  else if h : a.toNat ≤ 0x1F then s.din[a.toNat - 0x18]
  else if h : a.toNat ≤ 0x27 then
    if s.cipherPending then Config.unspecifiedDout s.draws else s.dout[a.toNat - 0x20]
  else if a.toNat = 0x28 then s.cmd
  else if a.toNat = 0x29 then s.status.byte
  else 0x00#8

/-- A host read answers the byte to the host and changes no state of the core (R52, R61); the next free value is a fresh
one. -/
def hostRead (a : Offset) (s : State) : State :=
  { s with reads := memRead s a :: s.reads, draws := s.draws + 1 }

/-- `MemWrite(a, 1, v)` at every offset but that of `CMD` (R53): a write to `KEY` or `DIN` is refused while `BUSY = 1`, and
a write to a read-only or reserved offset does nothing (R54, R56). -/
def dataWrite (a : Offset) (v : Byte) (s : State) : State :=
  if a.toNat ≤ 0x1F then
    if s.status.busy then s.refuse .busy
    else if a.toNat ≤ 0x17 then s.setKeyByte a.toNat v
    else s.setDinByte (a.toNat - 0x18) v
  else s

end Sys2Proof.Machine
end

