-- ==== Sys2Proof/Machine/Control.lean ====
section
/-! DEFINITION. The control commands `CLRE` and `SRST`, which take effect within the `CMD` write (spec/44_control.md R185 to
R187). -/

namespace Sys2Proof.Machine

/-- `CLRE`, 0x01 (R186): refused while `BUSY = 1`, otherwise `ERR <- 0`. -/
def execClre (s : State) : Result :=
  if s.status.busy then .next (s.refuse .busy) else .next s.clearErr

/-- `SRST`, 0x02 (R187): accepted in every state; every piece of state takes its reset value, and a pending operation is
abandoned. -/
def execSrst (s : State) : Result := .next s.resetCore

end Sys2Proof.Machine
end

