-- ==== Sys2Proof/Machine/Permutation.lean ====
section
/-! DEFINITION. The Permutation Engine and its six tables (spec/40_permutation.md R100 to R109). The entries are those the
spec states, which it marks as general knowledge of DES (spec/93_implementation_defined.md G1 to G6;
notes/assumptions/12.md). -/

namespace Sys2Proof.Machine

/-- `permute(n_in, n_out, V, T)` (R100): `W<j+1> = V<T[j]>` in DES numbering, where `V<k>` is `V.getMsbD (k - 1)`
(spec/00_scope.md R12). -/
def permute {nIn nOut : Nat} (T : Table nIn nOut) (V : BitVec nIn) : BitVec nOut :=
  (BitVec.ofBoolListBE (T.entries.map fun t => V.getMsbD (t - 1))).cast
    ((List.length_map _).trans T.length_entries)

/-- The entries of `IP`, initial permutation (R104). -/
def tableIPEntries : List Nat := [
  58, 50, 42, 34, 26, 18, 10,  2,
  60, 52, 44, 36, 28, 20, 12,  4,
  62, 54, 46, 38, 30, 22, 14,  6,
  64, 56, 48, 40, 32, 24, 16,  8,
  57, 49, 41, 33, 25, 17,  9,  1,
  59, 51, 43, 35, 27, 19, 11,  3,
  61, 53, 45, 37, 29, 21, 13,  5,
  63, 55, 47, 39, 31, 23, 15,  7]

/-- `IP`, initial permutation, 64 to 64 (R103, R104). -/
def tableIP : Table 64 64 := ⟨tableIPEntries, by decide⟩

/-- The entries of `FP`, final permutation (R105). -/
def tableFPEntries : List Nat := [
  40,  8, 48, 16, 56, 24, 64, 32,
  39,  7, 47, 15, 55, 23, 63, 31,
  38,  6, 46, 14, 54, 22, 62, 30,
  37,  5, 45, 13, 53, 21, 61, 29,
  36,  4, 44, 12, 52, 20, 60, 28,
  35,  3, 43, 11, 51, 19, 59, 27,
  34,  2, 42, 10, 50, 18, 58, 26,
  33,  1, 41,  9, 49, 17, 57, 25]

/-- `FP`, final permutation, 64 to 64 (R103, R105). -/
def tableFP : Table 64 64 := ⟨tableFPEntries, by decide⟩

/-- The entries of `E`, expansion (R106). -/
def tableEEntries : List Nat := [
  32,  1,  2,  3,  4,  5,
   4,  5,  6,  7,  8,  9,
   8,  9, 10, 11, 12, 13,
  12, 13, 14, 15, 16, 17,
  16, 17, 18, 19, 20, 21,
  20, 21, 22, 23, 24, 25,
  24, 25, 26, 27, 28, 29,
  28, 29, 30, 31, 32,  1]

/-- `E`, expansion, 32 to 48 (R103, R106). -/
def tableE : Table 32 48 := ⟨tableEEntries, by decide⟩

/-- The entries of `P`, round permutation (R107). -/
def tablePEntries : List Nat := [
  16,  7, 20, 21, 29, 12, 28, 17,
   1, 15, 23, 26,  5, 18, 31, 10,
   2,  8, 24, 14, 32, 27,  3,  9,
  19, 13, 30,  6, 22, 11,  4, 25]

/-- `P`, round permutation, 32 to 32 (R103, R107). -/
def tableP : Table 32 32 := ⟨tablePEntries, by decide⟩

/-- The entries of `PC1`, permuted choice 1 (R108). -/
def tablePC1Entries : List Nat := [
  57, 49, 41, 33, 25, 17,  9,
   1, 58, 50, 42, 34, 26, 18,
  10,  2, 59, 51, 43, 35, 27,
  19, 11,  3, 60, 52, 44, 36,
  63, 55, 47, 39, 31, 23, 15,
   7, 62, 54, 46, 38, 30, 22,
  14,  6, 61, 53, 45, 37, 29,
  21, 13,  5, 28, 20, 12,  4]

/-- `PC1`, permuted choice 1, 64 to 56 (R103, R108). -/
def tablePC1 : Table 64 56 := ⟨tablePC1Entries, by decide⟩

/-- The entries of `PC2`, permuted choice 2 (R109). -/
def tablePC2Entries : List Nat := [
  14, 17, 11, 24,  1,  5,
   3, 28, 15,  6, 21, 10,
  23, 19, 12,  4, 26,  8,
  16,  7, 27, 20, 13,  2,
  41, 52, 31, 37, 47, 55,
  30, 40, 51, 45, 33, 48,
  44, 49, 39, 56, 34, 53,
  46, 42, 50, 36, 29, 32]

/-- `PC2`, permuted choice 2, 56 to 48 (R103, R109). -/
def tablePC2 : Table 56 48 := ⟨tablePC2Entries, by decide⟩

end Sys2Proof.Machine
end

