-- ==== Sys2Proof/Machine/KeySchedule.lean ====
section
/-! DEFINITION. The Key Schedule Generator and the commands `KGEN1` to `KGEN3`, `KGENA` (spec/42_key_schedule.md R150 to
R156). -/

namespace Sys2Proof.Machine

/-- `rol28(x, n) = ((x << n) | (x >> (28 - n))) mod 2^28` (spec/00_scope.md R13). -/
def rol28 (x : KeyHalf) (n : Nat) : KeyHalf := (x <<< n) ||| (x >>> (28 - n))

/-- The rotation schedule `ROT[0..15]` (R152). -/
def rotations : List Nat := [1, 1, 2, 2, 2, 2, 2, 2, 1, 2, 2, 2, 2, 2, 2, 1]

/-- `C = CD[55:28]` (R151). -/
def leftHalf (CD : KeyHalves) : KeyHalf := CD.extractLsb' 28 28

/-- `D = CD[27:0]` (R151). -/
def rightHalf (CD : KeyHalves) : KeyHalf := CD.extractLsb' 0 28

/-- The round keys of the listed rotations, in order (R153): each round rotates the halves that the round before left, and
takes its round key from the rotated halves. -/
def roundKeys : List Nat → KeyHalf → KeyHalf → List RoundKey
  | [], _, _ => []
  | n :: ns, C, D =>
    permute tablePC2 (rol28 C n ++ rol28 D n) :: roundKeys ns (rol28 C n) (rol28 D n)

theorem length_roundKeys (ns : List Nat) (C D : KeyHalf) : (roundKeys ns C D).length = ns.length := by
  induction ns generalizing C D with
  | nil => rfl
  | cons n ns ih => exact congrArg (· + 1) (ih _ _)

/-- The sixteen round keys of the halves `C`, `D` of the split (R153). -/
def scheduleOfHalves (C D : KeyHalf) : KeySchedule :=
  ⟨(roundKeys rotations C D).toArray, List.size_toArray.trans (length_roundKeys _ _ _)⟩

/-- `keysched(K)` (R153): permuted choice 1, the split (R151), and the sixteen rounds. -/
def keysched (K : Block) : KeySchedule :=
  scheduleOfHalves (leftHalf (permute tablePC1 K)) (rightHalf (permute tablePC1 K))

/-- `KS[k] <- keysched(be(KEY[8(k-1) .. 8(k-1)+7]))` and `KVk <- 1` (R155, R236). -/
def State.generateBank (s : State) (k : Slot) : State := (s.setBank k (keysched (s.keyBlock k))).setKv k true

/-! ### The commands: what issuing one does (R155, R156, R234) -/

/-- `KGENA`, 0x10 (R156), within the `CMD` write. -/
def execKgena (s : State) : Result := issueKeyCommand 0x10#8 [.k1, .k2, .k3] s

/-- `KGEN1`, 0x11 (R155), within the `CMD` write. -/
def execKgen1 (s : State) : Result := issueKeyCommand 0x11#8 [.k1] s

/-- `KGEN2`, 0x12 (R155), within the `CMD` write. -/
def execKgen2 (s : State) : Result := issueKeyCommand 0x12#8 [.k2] s

/-- `KGEN3`, 0x13 (R155), within the `CMD` write. -/
def execKgen3 (s : State) : Result := issueKeyCommand 0x13#8 [.k3] s

/-! ### The commands: what the engine's completion step computes (R155, R156, R236) -/

/-- The completion of `KGENA` (R156): all three banks and flags change in the one step. -/
def completeKgena (s : State) : State := (((s.generateBank .k1).generateBank .k2).generateBank .k3).finish

/-- The completion of `KGEN1` (R155). -/
def completeKgen1 (s : State) : State := (s.generateBank .k1).finish

/-- The completion of `KGEN2` (R155). -/
def completeKgen2 (s : State) : State := (s.generateBank .k2).finish

/-- The completion of `KGEN3` (R155). -/
def completeKgen3 (s : State) : State := (s.generateBank .k3).finish

end Sys2Proof.Machine
end

