-- ==== Sys2Proof/Machine/DesBlock.lean ====
section
/-! DEFINITION. The DES Block Cipher and the commands `DESE1` to `DESE3`, `DESD1` to `DESD3` (spec/41_des_block.md R120 to
R131). The S-box entries and conventions are those the spec states, which it marks as general knowledge of DES
(spec/93_implementation_defined.md G7, G8; notes/assumptions/12.md). -/

namespace Sys2Proof.Machine

/-! ### Substitution -/

/-- `SBOX[0]` (R124). -/
def sbox0 : SBox := #v[
  #v[14,  4, 13,  1,  2, 15, 11,  8,  3, 10,  6, 12,  5,  9,  0,  7],
  #v[ 0, 15,  7,  4, 14,  2, 13,  1, 10,  6, 12, 11,  9,  5,  3,  8],
  #v[ 4,  1, 14,  8, 13,  6,  2, 11, 15, 12,  9,  7,  3, 10,  5,  0],
  #v[15, 12,  8,  2,  4,  9,  1,  7,  5, 11,  3, 14, 10,  0,  6, 13]]

/-- `SBOX[1]` (R124). -/
def sbox1 : SBox := #v[
  #v[15,  1,  8, 14,  6, 11,  3,  4,  9,  7,  2, 13, 12,  0,  5, 10],
  #v[ 3, 13,  4,  7, 15,  2,  8, 14, 12,  0,  1, 10,  6,  9, 11,  5],
  #v[ 0, 14,  7, 11, 10,  4, 13,  1,  5,  8, 12,  6,  9,  3,  2, 15],
  #v[13,  8, 10,  1,  3, 15,  4,  2, 11,  6,  7, 12,  0,  5, 14,  9]]

/-- `SBOX[2]` (R124). -/
def sbox2 : SBox := #v[
  #v[10,  0,  9, 14,  6,  3, 15,  5,  1, 13, 12,  7, 11,  4,  2,  8],
  #v[13,  7,  0,  9,  3,  4,  6, 10,  2,  8,  5, 14, 12, 11, 15,  1],
  #v[13,  6,  4,  9,  8, 15,  3,  0, 11,  1,  2, 12,  5, 10, 14,  7],
  #v[ 1, 10, 13,  0,  6,  9,  8,  7,  4, 15, 14,  3, 11,  5,  2, 12]]

/-- `SBOX[3]` (R124). -/
def sbox3 : SBox := #v[
  #v[ 7, 13, 14,  3,  0,  6,  9, 10,  1,  2,  8,  5, 11, 12,  4, 15],
  #v[13,  8, 11,  5,  6, 15,  0,  3,  4,  7,  2, 12,  1, 10, 14,  9],
  #v[10,  6,  9,  0, 12, 11,  7, 13, 15,  1,  3, 14,  5,  2,  8,  4],
  #v[ 3, 15,  0,  6, 10,  1, 13,  8,  9,  4,  5, 11, 12,  7,  2, 14]]

/-- `SBOX[4]` (R124). -/
def sbox4 : SBox := #v[
  #v[ 2, 12,  4,  1,  7, 10, 11,  6,  8,  5,  3, 15, 13,  0, 14,  9],
  #v[14, 11,  2, 12,  4,  7, 13,  1,  5,  0, 15, 10,  3,  9,  8,  6],
  #v[ 4,  2,  1, 11, 10, 13,  7,  8, 15,  9, 12,  5,  6,  3,  0, 14],
  #v[11,  8, 12,  7,  1, 14,  2, 13,  6, 15,  0,  9, 10,  4,  5,  3]]

/-- `SBOX[5]` (R124). -/
def sbox5 : SBox := #v[
  #v[12,  1, 10, 15,  9,  2,  6,  8,  0, 13,  3,  4, 14,  7,  5, 11],
  #v[10, 15,  4,  2,  7, 12,  9,  5,  6,  1, 13, 14,  0, 11,  3,  8],
  #v[ 9, 14, 15,  5,  2,  8, 12,  3,  7,  0,  4, 10,  1, 13, 11,  6],
  #v[ 4,  3,  2, 12,  9,  5, 15, 10, 11, 14,  1,  7,  6,  0,  8, 13]]

/-- `SBOX[6]` (R124). -/
def sbox6 : SBox := #v[
  #v[ 4, 11,  2, 14, 15,  0,  8, 13,  3, 12,  9,  7,  5, 10,  6,  1],
  #v[13,  0, 11,  7,  4,  9,  1, 10, 14,  3,  5, 12,  2, 15,  8,  6],
  #v[ 1,  4, 11, 13, 12,  3,  7, 14, 10, 15,  6,  8,  0,  5,  9,  2],
  #v[ 6, 11, 13,  8,  1,  4, 10,  7,  9,  5,  0, 15, 14,  2,  3, 12]]

/-- `SBOX[7]` (R124). -/
def sbox7 : SBox := #v[
  #v[13,  2,  8,  4,  6, 15, 11,  1, 10,  9,  3, 14,  5,  0, 12,  7],
  #v[ 1, 15, 13,  8, 10,  3,  7,  4, 12,  5,  6, 11,  0, 14,  9,  2],
  #v[ 7, 11,  4,  1,  9, 12, 14,  2,  0,  6, 10, 13, 15,  3,  5,  8],
  #v[ 2,  1, 14,  7,  4, 10,  8, 13, 15, 12,  9,  0,  3,  5,  6, 11]]

/-- `SBOX[g]` (R124). -/
def sboxTable (g : Fin 8) : SBox :=
  match g with
  | 0 => sbox0
  | 1 => sbox1
  | 2 => sbox2
  | 3 => sbox3
  | 4 => sbox4
  | 5 => sbox5
  | 6 => sbox6
  | 7 => sbox7

/-- The row of a group: `2 * x<1> + x<6>` (R123). -/
def sboxRow (x : BitVec 6) : Nat := 2 * (x.getMsbD 0).toNat + (x.getMsbD 5).toNat

theorem sboxRow_lt (x : BitVec 6) : sboxRow x < 4 := by
  have h0 := (x.getMsbD 0).toNat_lt
  have h5 := (x.getMsbD 5).toNat_lt
  unfold sboxRow
  omega

/-- The column of a group: `8 * x<2> + 4 * x<3> + 2 * x<4> + x<5>`, that is `x[4:1]` (R123). -/
def sboxCol (x : BitVec 6) : Nat := (x.extractLsb' 1 4).toNat

theorem sboxCol_lt (x : BitVec 6) : sboxCol x < 16 := (x.extractLsb' 1 4).isLt

/-- `sbox(g, x) = SBOX[g][row][col]` (R123). -/
def sbox (g : Fin 8) (x : BitVec 6) : BitVec 4 :=
  ((sboxTable g)[sboxRow x]'(sboxRow_lt x))[sboxCol x]'(sboxCol_lt x)

/-- Group `g` of a 48-bit value: `X[47-6g : 42-6g]` (R84, R125). -/
def group (X : ExpandedBlock) (g : Fin 8) : BitVec 6 := X.extractLsb' (42 - 6 * g.val) 6

/-- `subst(X) = y_0 ‖ y_1 ‖ ... ‖ y_7` with `y_g = sbox(g, x_g)` (R125). -/
def subst (X : ExpandedBlock) : HalfBlock :=
  sbox 0 (group X 0) ++ sbox 1 (group X 1) ++ sbox 2 (group X 2) ++ sbox 3 (group X 3) ++
    sbox 4 (group X 4) ++ sbox 5 (group X 5) ++ sbox 6 (group X 6) ++ sbox 7 (group X 7)

/-! ### The Feistel network -/

/-- The Feistel function `F(R, K)` (R126). -/
def feistelF (R : HalfBlock) (K : RoundKey) : HalfBlock :=
  permute tableP (subst (permute tableE R ^^^ K))

/-- `split(V) = (V[63:32], V[31:0])` (R121): Left and Right. -/
def splitBlock (V : Block) : HalfBlock × HalfBlock := (V.extractLsb' 32 32, V.extractLsb' 0 32)

/-- `L ‖ R`, the inverse of `split` (R121). -/
def joinHalves (h : HalfBlock × HalfBlock) : Block := h.1 ++ h.2

/-- `round(L, R, K, swap)` (R127): `T = L ^ F(R, K)`, then `(R, T)` with the swap and `(T, R)` without. -/
def feistelRound (h : HalfBlock × HalfBlock) (K : RoundKey) (swap : Bool) : HalfBlock × HalfBlock :=
  let T := h.1 ^^^ feistelF h.2 K
  if swap then (h.2, T) else (T, h.2)

/-- The rounds of the listed indices, in order; `last` is the index of the round that does not swap (R128, R129). -/
def feistelRounds (S : KeySchedule) (last : Fin 16) (order : List (Fin 16)) (h : HalfBlock × HalfBlock) :
    HalfBlock × HalfBlock :=
  order.foldl (fun h i => feistelRound h S[i] (i != last)) h

/-- The round indices 0, 1, ..., 15 in this order (R34, R128). -/
def encryptOrder : List (Fin 16) := [0, 1, 2, 3, 4, 5, 6, 7, 8, 9, 10, 11, 12, 13, 14, 15]

/-- The round indices 15, 14, ..., 0 in this order (R34, R129). -/
def decryptOrder : List (Fin 16) := [15, 14, 13, 12, 11, 10, 9, 8, 7, 6, 5, 4, 3, 2, 1, 0]

/-- `des_enc(B, S)` (R128): round 15, the last one, does not swap. -/
def desEnc (B : Block) (S : KeySchedule) : Block :=
  permute tableFP (joinHalves (feistelRounds S 15 encryptOrder (splitBlock (permute tableIP B))))

/-- `des_dec(B, S)` (R129): the keys are consumed in the order 15..0, and the round of `S[0]`, the last one processed,
does not swap (spec/90_conflicts.md C1, reading A). -/
def desDec (B : Block) (S : KeySchedule) : Block :=
  permute tableFP (joinHalves (feistelRounds S 0 decryptOrder (splitBlock (permute tableIP B))))

/-! ### The commands: what issuing one does (R130, R131, R234) -/

/-- `DESE1`, 0x21 (R130), within the `CMD` write. -/
def execDese1 (s : State) : Result := issueCipherCommand 0x21#8 [.k1] s

/-- `DESE2`, 0x22 (R130), within the `CMD` write. -/
def execDese2 (s : State) : Result := issueCipherCommand 0x22#8 [.k2] s

/-- `DESE3`, 0x23 (R130), within the `CMD` write. -/
def execDese3 (s : State) : Result := issueCipherCommand 0x23#8 [.k3] s

/-- `DESD1`, 0x31 (R131), within the `CMD` write. -/
def execDesd1 (s : State) : Result := issueCipherCommand 0x31#8 [.k1] s

/-- `DESD2`, 0x32 (R131), within the `CMD` write. -/
def execDesd2 (s : State) : Result := issueCipherCommand 0x32#8 [.k2] s

/-- `DESD3`, 0x33 (R131), within the `CMD` write. -/
def execDesd3 (s : State) : Result := issueCipherCommand 0x33#8 [.k3] s

/-! ### The commands: what the engine's completion step computes (R130, R131, R236) -/

/-- The completion of `DESE1` (R130). -/
def completeDese1 (s : State) : State := (s.setDout (desEnc s.dinBlock (s.bank .k1))).finish

/-- The completion of `DESE2` (R130). -/
def completeDese2 (s : State) : State := (s.setDout (desEnc s.dinBlock (s.bank .k2))).finish

/-- The completion of `DESE3` (R130). -/
def completeDese3 (s : State) : State := (s.setDout (desEnc s.dinBlock (s.bank .k3))).finish

/-- The completion of `DESD1` (R131). -/
def completeDesd1 (s : State) : State := (s.setDout (desDec s.dinBlock (s.bank .k1))).finish

/-- The completion of `DESD2` (R131). -/
def completeDesd2 (s : State) : State := (s.setDout (desDec s.dinBlock (s.bank .k2))).finish

/-- The completion of `DESD3` (R131). -/
def completeDesd3 (s : State) : State := (s.setDout (desDec s.dinBlock (s.bank .k3))).finish

end Sys2Proof.Machine
end

