-- ==== Sys2Proof/Machine/Tdes.lean ====
section
/-! DEFINITION. The Triple-DES Composer and the commands `TDESE`, `TDESD` (spec/43_tdes.md R170 to R174). -/

namespace Sys2Proof.Machine

/-- `tdes_enc(B, S1, S2, S3)` (R171): encrypt under K1, decrypt under K2, encrypt under K3. -/
def tdesEnc (B : Block) (S : TripleKeySet) : Block :=
  desEnc (desDec (desEnc B (S.get .k1)) (S.get .k2)) (S.get .k3)

/-- `tdes_dec(B, S1, S2, S3)` (R172): decrypt under K3, encrypt under K2, decrypt under K1. -/
def tdesDec (B : Block) (S : TripleKeySet) : Block :=
  desDec (desEnc (desDec B (S.get .k3)) (S.get .k2)) (S.get .k1)

/-- `TDESE`, 0x40 (R173), within the `CMD` write. -/
def execTdese (s : State) : Result := issueCipherCommand 0x40#8 [.k1, .k2, .k3] s

/-- `TDESD`, 0x50 (R174), within the `CMD` write. -/
def execTdesd (s : State) : Result := issueCipherCommand 0x50#8 [.k1, .k2, .k3] s

/-- The completion of `TDESE` (R173): `DOUT` changes once, to the block after the third pass. -/
def completeTdese (s : State) : State := (s.setDout (tdesEnc s.dinBlock s.ks)).finish

/-- The completion of `TDESD` (R174). -/
def completeTdesd (s : State) : State := (s.setDout (tdesDec s.dinBlock s.ks)).finish

end Sys2Proof.Machine
end

