-- ==== Sys2Proof/Machine/Dispatch.lean ====
section
/-! DEFINITION. Which command calls which meaning: what issuing the command does, within the `CMD` write. The completion
step of an operation command is the engine's (Machine/Engine.lean). -/

namespace Sys2Proof.Machine

def exec (i : Instr) (s : State) : Host.Outcome State Fault Refusal :=
  match i with
  | .clre => Sys2Proof.Machine.execClre s
  | .srst => Sys2Proof.Machine.execSrst s
  | .kgena => Sys2Proof.Machine.execKgena s
  | .kgen1 => Sys2Proof.Machine.execKgen1 s
  | .kgen2 => Sys2Proof.Machine.execKgen2 s
  | .kgen3 => Sys2Proof.Machine.execKgen3 s
  | .dese1 => Sys2Proof.Machine.execDese1 s
  | .dese2 => Sys2Proof.Machine.execDese2 s
  | .dese3 => Sys2Proof.Machine.execDese3 s
  | .desd1 => Sys2Proof.Machine.execDesd1 s
  | .desd2 => Sys2Proof.Machine.execDesd2 s
  | .desd3 => Sys2Proof.Machine.execDesd3 s
  | .tdese => Sys2Proof.Machine.execTdese s
  | .tdesd => Sys2Proof.Machine.execTdesd s

end Sys2Proof.Machine
end

