-- ==== Sys2Proof/Machine/Engine.lean ====
section
/-! DEFINITION. The engine: its one kind of step, completion (spec/70_reset_and_hazards.md R236), and its turn. -/

namespace Sys2Proof.Machine

/-- What completion does for the pending command `i` (R236). A control command is never pending (R185). -/
def completeOf (i : Instr) (s : State) : Result :=
  match i with
  | .clre => .fault .noPendingOperation
  | .srst => .fault .noPendingOperation
  | .kgena => .next (completeKgena s)
  | .kgen1 => .next (completeKgen1 s)
  | .kgen2 => .next (completeKgen2 s)
  | .kgen3 => .next (completeKgen3 s)
  | .dese1 => .next (completeDese1 s)
  | .dese2 => .next (completeDese2 s)
  | .dese3 => .next (completeDese3 s)
  | .desd1 => .next (completeDesd1 s)
  | .desd2 => .next (completeDesd2 s)
  | .desd3 => .next (completeDesd3 s)
  | .tdese => .next (completeTdese s)
  | .tdesd => .next (completeTdesd s)

/-- `complete()` (R236): the byte in `CMD` alone says what is computed (R31). -/
def complete (s : State) : Result :=
  match decode s.cmd with
  | .command i => completeOf i s
  | .illegal => .fault .noPendingOperation

/-- A turn of the engine: completion is enabled exactly when `BUSY = 1` (R20, R236); otherwise nothing happens. -/
def engineTurn (s : State) : Result := if s.status.busy then complete s else .next s

end Sys2Proof.Machine
end

