-- ==== Sys2Proof/Machine/Port.lean ====
section
/-! DEFINITION. The host port (spec/20_memory.md R52, R53, R64): issuing a command, the write of a byte, and a step of the
host. -/

namespace Sys2Proof.Machine

/-- `issue(c)`, the effect of a write to `CMD` (spec/70_reset_and_hazards.md R234). A command's own meaning makes the tests
of R208 that concern it; an illegal byte is refused with `ERR_BUSY` while `BUSY = 1` and with `ERR_ILLEGAL` otherwise
(spec/30_encoding.md R79). -/
def issue (c : Byte) (s : State) : Result :=
  match decode c with
  | .command i => exec i s
  | .illegal => .next (s.refuse (if s.status.busy then .busy else .illegal))

/-- `MemWrite(a, 1, v)` (R53). -/
def memWrite (a : Offset) (v : Byte) (s : State) : Result :=
  if a = Config.cmdOffset then issue v s else .next (dataWrite a v s)

/-- One step of the host (R20): a read, a write, or the assertion of reset (R230). -/
def hostStep (op : HostOp) (s : State) : Result :=
  match op with
  | .read a => .next (hostRead a s)
  | .write a v => memWrite a v s
  | .reset => .next s.resetCore

/-- One turn of an execution (R64). -/
def turnStep (t : Turn) (s : State) : Result :=
  match t with
  | .host op => hostStep op s
  | .engine => engineTurn s

/-- The turn in which the host issues the command of the table word `w`. -/
def commandTurn (nbits w : Nat) : Turn := .host (.write Config.cmdOffset (BitVec.ofNat 8 (w % 2 ^ nbits)))

/-- The host's part of a list of turns: the accesses in port order. -/
def hostOps : List Turn → List HostOp
  | [] => []
  | .host op :: ts => op :: hostOps ts
  | .engine :: ts => hostOps ts

end Sys2Proof.Machine
end

