-- ==== Sys2Proof/Machine/Step.lean ====
section
/-! DEFINITION. One step of the machine: the next turn is taken (spec/10_state.md R20; spec/20_memory.md R64). -/

namespace Sys2Proof.Machine

/-- The head of `turns` says which agent moves. With no turn left the host is silent: a pending operation completes
(spec/70_reset_and_hazards.md R237), and an idle core keeps all its state (spec/60_exceptions.md R220). -/
def step (s : State) : Host.Outcome State Fault Refusal :=
  match s.turns with
  | [] => engineTurn s
  | t :: ts => turnStep t (s.setTurns ts)

/-- The state in which the host port presents, as its very next access, the write of the word's byte to `CMD`: what the
core has in place of fetching an instruction (spec/10_state.md R34; notes/assumptions/10.md). -/
def State.withFetchWord (s : State) (nbits w : Nat) : State := s.setTurns (commandTurn nbits w :: s.turns)

end Sys2Proof.Machine
end

