-- ==== Sys2Proof/Safety.lean ====
section
/-! DEFINITION. What counts as a safe run of the core, in the terms the statements use: a step that goes on, the invariants
of the command protocol and of the key-schedule banks, and when two states look the same to the host. -/

namespace Sys2Proof.Machine

/-- The step goes on: no fault, no refusal. The core's own refusals are next states (spec/60_exceptions.md R203). -/
def goesOn (r : Result) : Prop := ∃ t, r = .next t

/-- `n` steps of the machine, up to the first fault or refusal: the host's run of `core`, with the model's own types. -/
def run (n : Nat) (s : State) : Result := Sys2Proof.core.run n s

/-- The instruction is issued and, if it opens the busy window, the engine completes it: the whole life of a command
(spec/70_reset_and_hazards.md R233) with no other step in between. -/
def runCommand (i : Instr) (s : State) : Result :=
  match exec i s with
  | .next t => engineTurn t
  | .fault r => .fault r
  | .refused r => .refused r

/-- The host has copied `DOUT` to `DIN` (spec/43_tdes.md R178). -/
def State.copyOut (s : State) : State := { s with din := s.dout }

/-- The protocol of `STATUS` and `CMD` (spec/10_state.md R26 to R28, R31; spec/70_reset_and_hazards.md R234, R236, R241). -/
structure ProtocolInv (s : State) : Prop where
  /-- `BUSY` and `DONE` are never both 1 (R28) -/
  exclusive : ¬ (s.status.busy = true ∧ s.status.done = true)
  /-- before the first operation command `CMD` reads 0x00 and no bank is valid -/
  fresh : s.status.busy = false → s.status.done = false → s.cmd = 0x00#8 ∧ ∀ k, s.valid k = false
  /-- otherwise `CMD` holds an operation command (R26, R236) -/
  holdsOperation : s.status.busy = true ∨ s.status.done = true →
    ∃ i, decode s.cmd = .command i ∧ i.isOperation = true
  /-- a pending command has the banks it needs, and the banks it generates are invalid (R241) -/
  pendingBanks : s.status.busy = true → ∀ i, decode s.cmd = .command i →
    (∀ k ∈ i.needs, s.valid k = true) ∧ ∀ k ∈ i.generates, s.valid k = false

/-- A valid bank holds a schedule that some key generates (R27: "bank `KS[k]` holds a generated schedule"). -/
def ValidBanksGenerated (s : State) : Prop := ∀ k, s.valid k = true → ∃ K, s.bank k = keysched K

/-- The two states are the same but for the content of banks that are not valid, which is unspecified and which no command
reads (R25; spec/93_implementation_defined.md U2). -/
structure SameButInvalidBanks (s t : State) : Prop where
  key : t.key = s.key
  din : t.din = s.din
  dout : t.dout = s.dout
  cmd : t.cmd = s.cmd
  status : t.status = s.status
  turns : t.turns = s.turns
  reads : t.reads = s.reads
  draws : t.draws = s.draws
  bank : ∀ k, s.valid k = true → t.bank k = s.bank k

/-- The core's own registers are the same: everything of R21, nothing of the model's own fields. -/
structure SameCore (s t : State) : Prop where
  key : t.key = s.key
  din : t.din = s.din
  dout : t.dout = s.dout
  ks : t.ks = s.ks
  cmd : t.cmd = s.cmd
  status : t.status = s.status

/-- The access resets the core: the reset input, or `SRST` (spec/44_control.md R187). -/
def HostOp.resets (op : HostOp) : Bool :=
  match op with
  | .reset => true
  | .write a v => a == Config.cmdOffset && v == 0x02#8
  | .read _ => false

/-- The turn resets the core. -/
def Turn.resets (t : Turn) : Bool :=
  match t with
  | .host op => op.resets
  | .engine => false

end Sys2Proof.Machine
end

