-- ==== Sys2Proof/Certificates/Slice0/Obligations.lean ====
section
/-! DEFINITION. The statements for the provers, one `def Obligations.<Name> : Prop` each, listed in OBLIGATIONS.json. -/

open Sys2Proof Sys2Proof.Machine

/-- Each of the fourteen bytes of the table of R78, written out, decodes to the command of its row. (Rests on R78,
30_encoding.md section 2.) -/
def Obligations.TableBytesDecode : Prop :=
  decode 0x01#8 = .command .clre ∧ decode 0x02#8 = .command .srst ∧
  decode 0x10#8 = .command .kgena ∧
  decode 0x11#8 = .command .kgen1 ∧ decode 0x12#8 = .command .kgen2 ∧ decode 0x13#8 = .command .kgen3 ∧
  decode 0x21#8 = .command .dese1 ∧ decode 0x22#8 = .command .dese2 ∧ decode 0x23#8 = .command .dese3 ∧
  decode 0x31#8 = .command .desd1 ∧ decode 0x32#8 = .command .desd2 ∧ decode 0x33#8 = .command .desd3 ∧
  decode 0x40#8 = .command .tdese ∧ decode 0x50#8 = .command .tdesd

/-- For every command, decoding its byte gives the command, and the fields of its byte are well-formed; for every byte,
its fields make up the byte again, and they are well-formed if and only if the byte is not illegal. (Rests on R75,
R76, R78.) -/
def Obligations.EncodeThenDecode : Prop :=
  (∀ i : Instr, decode (encode i) = .command i ∧ (fieldsOf (encode i)).wf = true) ∧
  ∀ c : Byte, byteOfFields (fieldsOf c) = c ∧ ((fieldsOf c).wf = true ↔ decode c ≠ .illegal)

/-- For every byte c with op = c[7:4] and arg = c[3:0], decode gives the command that the list of R76 gives for these
fields, and illegal for all other fields. (States R76.) -/
def Obligations.DecodeIsTotalByFields : Prop :=
  ∀ c : Byte, decode c =
    if c.extractLsb' 4 4 = 0x0#4 ∧ c.extractLsb' 0 4 = 0x1#4 then .command .clre
    else if c.extractLsb' 4 4 = 0x0#4 ∧ c.extractLsb' 0 4 = 0x2#4 then .command .srst
    else if c.extractLsb' 4 4 = 0x1#4 ∧ c.extractLsb' 0 4 = 0x0#4 then .command .kgena
    else if c.extractLsb' 4 4 = 0x1#4 ∧ c.extractLsb' 0 4 = 0x1#4 then .command (.kgen .k1)
    else if c.extractLsb' 4 4 = 0x1#4 ∧ c.extractLsb' 0 4 = 0x2#4 then .command (.kgen .k2)
    else if c.extractLsb' 4 4 = 0x1#4 ∧ c.extractLsb' 0 4 = 0x3#4 then .command (.kgen .k3)
    else if c.extractLsb' 4 4 = 0x2#4 ∧ c.extractLsb' 0 4 = 0x1#4 then .command (.dese .k1)
    else if c.extractLsb' 4 4 = 0x2#4 ∧ c.extractLsb' 0 4 = 0x2#4 then .command (.dese .k2)
    else if c.extractLsb' 4 4 = 0x2#4 ∧ c.extractLsb' 0 4 = 0x3#4 then .command (.dese .k3)
    else if c.extractLsb' 4 4 = 0x3#4 ∧ c.extractLsb' 0 4 = 0x1#4 then .command (.desd .k1)
    else if c.extractLsb' 4 4 = 0x3#4 ∧ c.extractLsb' 0 4 = 0x2#4 then .command (.desd .k2)
    else if c.extractLsb' 4 4 = 0x3#4 ∧ c.extractLsb' 0 4 = 0x3#4 then .command (.desd .k3)
    else if c.extractLsb' 4 4 = 0x4#4 ∧ c.extractLsb' 0 4 = 0x0#4 then .command .tdese
    else if c.extractLsb' 4 4 = 0x5#4 ∧ c.extractLsb' 0 4 = 0x0#4 then .command .tdesd
    else .illegal

/-- A byte is illegal exactly if it lies in the ranges that R79 lists, which are 242 values; writing an illegal byte to
CMD goes on, with ERR_ILLEGAL recorded when BUSY = 0 and ERR_BUSY when BUSY = 1 if ERR was 0, and nothing else
changed. (States R79.) -/
def Obligations.IllegalBytesAreRefused : Prop :=
  (∀ c : Byte, decode c = .illegal ↔
    c = 0x00#8 ∨ 0x03#8 ≤ c ∧ c ≤ 0x0F#8 ∨ 0x14#8 ≤ c ∧ c ≤ 0x1F#8 ∨ c = 0x20#8 ∨ 0x24#8 ≤ c ∧ c ≤ 0x2F#8 ∨
    c = 0x30#8 ∨ 0x34#8 ≤ c ∧ c ≤ 0x3F#8 ∨ 0x41#8 ≤ c ∧ c ≤ 0x4F#8 ∨ 0x51#8 ≤ c ∧ c ≤ 0x5F#8 ∨ 0x60#8 ≤ c) ∧
  ((List.range 256).filter fun n => decode (BitVec.ofNat 8 n) == .illegal).length = 242 ∧
  ∀ (c : Byte) (s : State), decode c = .illegal →
    memWrite 0x28#6 c s = .next { s with status := { s.status with
      err := if s.status.err = .none then (if s.status.busy then .busy else .illegal) else s.status.err } }

/-- For every table and input: the table has an entry t for each output position j, output DES bit j+1 is input DES bit
t, in register numbering output bit n_out-1-j is input bit n_in-t; an all-zero input gives an all-zero output and an
all-one input an all-one output; and the bit reversal table sends 0xB2 to 0x4D. (States R100.) -/
def Obligations.PermuteSelectsBits : Prop :=
  (∀ (nIn nOut : Nat) (T : Table nIn nOut) (V : BitVec nIn),
    (∀ j, j < nOut → ∃ t, T.entries[j]? = some t ∧ 1 ≤ t ∧ t ≤ nIn ∧
      (permute T V).getMsbD j = V.getMsbD (t - 1) ∧ (permute T V).getLsbD (nOut - 1 - j) = V.getLsbD (nIn - t)) ∧
    permute T 0#nIn = 0#nOut ∧ permute T (BitVec.allOnes nIn) = BitVec.allOnes nOut) ∧
  ∀ T : Table 8 8, T.entries = [8, 7, 6, 5, 4, 3, 2, 1] → permute T 0xB2#8 = 0x4D#8

/-- For every n, permuting with the table 1, 2, ..., n is the identity; and if the entry of T at position U[i]-1 is i+1
for every i, then permuting with T and then with U gives the input back. (States R111.) -/
def Obligations.PermuteIdentityAndInversePair : Prop :=
  (∀ (n : Nat) (T : Table n n) (V : BitVec n), T.entries = List.range' 1 n → permute T V = V) ∧
  ∀ (n : Nat) (T U : Table n n) (V : BitVec n),
    (∀ i u, U.entries[i]? = some u → T.entries[u - 1]? = some (i + 1)) → permute U (permute T V) = V

/-- For every j in 0..63, FP[IP[j]-1] = j+1 and IP[FP[j]-1] = j+1; and permuting with IP and then FP, or with FP and
then IP, gives every 64-bit value back. (States R110.) -/
def Obligations.FinalPermutationInvertsInitial : Prop :=
  (∀ j, j < 64 →
    tableFP.entries.getD (tableIP.entries.getD j 0 - 1) 0 = j + 1 ∧
    tableIP.entries.getD (tableFP.entries.getD j 0 - 1) 0 = j + 1) ∧
  ∀ V : Block, permute tableFP (permute tableIP V) = V ∧ permute tableIP (permute tableFP V) = V

/-- Entry i of row g of E is ((4g + i - 1) mod 32) + 1; PC1 never selects 8, 16, ..., 64, and every other index once;
PC2 selects each index of 1..56 at most once, never 9, 18, 22, 25, 35, 38, 43, 54, its first 24 entries from C
(1..28) and its last 24 from D (29..56). (Rests on R106, R108, R109, 40_permutation.md section 2.) -/
def Obligations.TableEntryFacts : Prop :=
  (∀ g, g < 8 → ∀ i, i < 6 → tableE.entries[6 * g + i]? = some ((4 * g + i + 31) % 32 + 1)) ∧
  (∀ t, t < 65 → tablePC1.entries.count t = if t % 8 = 0 then 0 else 1) ∧
  (∀ t, t < 57 → tablePC2.entries.count t = if t ∈ [0, 9, 18, 22, 25, 35, 38, 43, 54] then 0 else 1) ∧
  (∀ t ∈ tablePC2.entries.take 24, t ≤ 28) ∧ ∀ t ∈ tablePC2.entries.drop 24, 29 ≤ t

/-- For every table g and 6-bit input x, with row = 2*x<1> + x<6> and col = 8*x<2> + 4*x<3> + 2*x<4> + x<5>, sbox(g, x)
is SBOX[g][row][col]; and sbox(0, 011000b) = 5. (States R123.) -/
def Obligations.SboxLookup : Prop :=
  (∀ (g : Fin 8) (x : BitVec 6) (row : Fin 4) (col : Fin 16),
    row.val = 2 * (x.getMsbD 0).toNat + (x.getMsbD 5).toNat →
    col.val = 8 * (x.getMsbD 1).toNat + 4 * (x.getMsbD 2).toNat + 2 * (x.getMsbD 3).toNat + (x.getMsbD 4).toNat →
    sbox g x = (sboxTable g)[row][col]) ∧
  sbox 0 0b011000#6 = 5#4

/-- For every table, row and 4-bit value there is a column that holds the value (so the sixteen columns hold each value
once). (Rests on R124.) -/
def Obligations.SboxRowsArePermutations : Prop :=
  ∀ (g : Fin 8) (row : Fin 4) (v : BitVec 4), ∃ col : Fin 16, (sboxTable g)[row][col] = v

/-- For every 48-bit X and group g, DES bits 4g+1..4g+4 of subst(X), that is bits 31-4g : 28-4g, are sbox(g, X[47-6g :
42-6g]); and the three worked examples. (States R125.) -/
def Obligations.SubstitutionByGroups : Prop :=
  (∀ (X : ExpandedBlock) (g : Fin 8),
    (subst X).extractLsb' (28 - 4 * g.val) 4 = sbox g (X.extractLsb' (42 - 6 * g.val) 6)) ∧
  subst 0x6117BA866527#48 = 0x5C82B597#32 ∧ subst 0x000000000000#48 = 0xEFA72C4D#32 ∧
  subst 0xFFFFFFFFFFFF#48 = 0xD9CE3DCB#32

/-- F(R, K) is P applied to subst(E(R) xor K), for all R and K; F(0, 0) = 0xD8D8DBBC, F(0xFFFFFFFF, 0) = F(0,
0xFFFFFFFFFFFF) = 0x38DBF9CB, and the worked example with its intermediate values X, Y and Z. (States R126.) -/
def Obligations.FeistelFunction : Prop :=
  (∀ (R : HalfBlock) (K : RoundKey), feistelF R K = permute tableP (subst (permute tableE R ^^^ K))) ∧
  feistelF 0#32 0#48 = 0xD8D8DBBC#32 ∧ feistelF 0xFFFFFFFF#32 0#48 = 0x38DBF9CB#32 ∧
  feistelF 0#32 0xFFFFFFFFFFFF#48 = 0x38DBF9CB#32 ∧
  permute tableE 0xF0AAF0AA#32 = 0x7A15557A1555#48 ∧
  0x7A15557A1555#48 ^^^ 0x1B02EFFC7072#48 = 0x6117BA866527#48 ∧ subst 0x6117BA866527#48 = 0x5C82B597#32 ∧
  feistelF 0xF0AAF0AA#32 0x1B02EFFC7072#48 = 0x234AA9BB#32

/-- With T = L xor F(R, K), a round with swap gives (R, T) and a round without swap gives (T, R). (States R127.) -/
def Obligations.OneRound : Prop :=
  ∀ (L R : HalfBlock) (K : RoundKey),
    feistelRound (L, R) K true = (R, L ^^^ feistelF R K) ∧ feistelRound (L, R) K false = (L ^^^ feistelF R K, R)

/-- split(V) is (V[63:32], V[31:0]), the concatenation of the two halves is V again, and splitting L concatenated with R
gives (L, R). (States R121.) -/
def Obligations.SplitAndConcatenate : Prop :=
  (∀ V : Block, splitBlock V = (V.extractLsb' 32 32, V.extractLsb' 0 32) ∧ joinHalves (splitBlock V) = V) ∧
  ∀ L R : HalfBlock, joinHalves (L, R) = L ++ R ∧ splitBlock (L ++ R) = (L, R)

/-- For every block B and every sequence S of sixteen round keys, des_dec(des_enc(B, S), S) = B and des_enc(des_dec(B,
S), S) = B. (States R132.) -/
def Obligations.DesDecryptionInvertsEncryption : Prop :=
  ∀ (B : Block) (S : KeySchedule), desDec (desEnc B S) S = B ∧ desEnc (desDec B S) S = B

/-- For every block B and schedules S, S2 with S2[i] = S[15-i] for every i, des_dec(B, S) = des_enc(B, S2). (Rests on
R129, 90_conflicts.md C1.) -/
def Obligations.DecryptionIsEncryptionWithReversedKeys : Prop :=
  ∀ (B : Block) (S S2 : KeySchedule), (∀ i : Fin 16, S2[i] = S[15 - i.val]) → desDec B S = desEnc B S2

/-- Let L0, R0 be the halves of IP(B), and L(n+1) = R(n), R(n+1) = L(n) xor F(R(n), S[n]) for n in 0..15. Then the pair
held after the round of index i <= 14 is (L(i+1), R(i+1)), the pair after round 15 is (R16, L16), and des_enc(B, S)
is FP of R16 concatenated with L16. (States R134.) -/
def Obligations.TextbookDes : Prop :=
  ∀ (B : Block) (S : KeySchedule) (L R : Nat → HalfBlock), L 0 ++ R 0 = permute tableIP B →
    (∀ n : Fin 16, L (n.val + 1) = R n.val ∧ R (n.val + 1) = L n.val ^^^ feistelF (R n.val) S[n]) →
    (∀ i, i ≤ 14 → feistelRounds S 15 (encryptOrder.take (i + 1)) (splitBlock (permute tableIP B)) =
      (L (i + 1), R (i + 1))) ∧
    feistelRounds S 15 encryptOrder (splitBlock (permute tableIP B)) = (R 16, L 16) ∧
    desEnc B S = permute tableFP (R 16 ++ L 16)

/-- With the key 0x133457799BBCDFF1, round keys 0 and 15 are 0x1B02EFFC7072 and 0xCB3D8B0E17F5, the block
0x0123456789ABCDEF encrypts to 0x85E813540F0AB405, and that decrypts to the block again. (Rests on R128, R129, R153,
95_test_vectors.md section 2.) -/
def Obligations.PublishedDesExample : Prop :=
  (keysched 0x133457799BBCDFF1#64)[0] = 0x1B02EFFC7072#48 ∧ (keysched 0x133457799BBCDFF1#64)[15] = 0xCB3D8B0E17F5#48 ∧
  desEnc 0x0123456789ABCDEF#64 (keysched 0x133457799BBCDFF1#64) = 0x85E813540F0AB405#64 ∧
  desDec 0x85E813540F0AB405#64 (keysched 0x133457799BBCDFF1#64) = 0x0123456789ABCDEF#64

/-- There are sixteen rotations; the amount is 1 in rounds 0, 1, 8, 15 and 2 in the others; and the running totals are
1, 2, 4, 6, 8, 10, 12, 14, 15, 17, 19, 21, 23, 25, 27, 28. (States R152.) -/
def Obligations.RotationSchedule : Prop :=
  rotations.length = 16 ∧
  (∀ r, r < 16 → rotations[r]? = some (if r = 0 ∨ r = 1 ∨ r = 8 ∨ r = 15 then 1 else 2)) ∧
  (List.range 16).map (fun r => (rotations.take (r + 1)).sum) =
    [1, 2, 4, 6, 8, 10, 12, 14, 15, 17, 19, 21, 23, 25, 27, 28]

/-- For every key K and round r, with C and D the halves of PC1(K), round key r is PC2 of C and D each rotated left,
within 28 bits, by the sum of the rotations of rounds 0..r; and round key 15 is PC2 of PC1(K) itself. (Rests on
R153, R154.) -/
def Obligations.RotationAccumulates : Prop :=
  ∀ K : Block,
    (∀ r : Fin 16, (keysched K)[r] = permute tablePC2
      (((permute tablePC1 K).extractLsb' 28 28).rotateLeft ((rotations.take (r.val + 1)).sum) ++
        ((permute tablePC1 K).extractLsb' 0 28).rotateLeft ((rotations.take (r.val + 1)).sum))) ∧
    (keysched K)[15] = permute tablePC2 (permute tablePC1 K)

/-- If two keys agree in every bit but the least significant bit of each byte, their key schedules are equal. (Rests on
R157, R81.) -/
def Obligations.ParityBitsIgnored : Prop :=
  ∀ K K2 : Block, K &&& 0xFEFEFEFEFEFEFEFE#64 = K2 &&& 0xFEFEFEFEFEFEFEFE#64 → keysched K = keysched K2

/-- If each half of PC1(K) is all zeros or all ones, the sixteen round keys of K are equal, and encryption and
decryption with them coincide; 0x0101010101010101 gives sixteen times 0 and 0xFEFEFEFEFEFEFEFE sixteen times
0xFFFFFFFFFFFF. (Rests on R159.) -/
def Obligations.EqualRoundKeysMakeDesSelfInverse : Prop :=
  (∀ K : Block,
    ((permute tablePC1 K).extractLsb' 28 28 = 0#28 ∨ (permute tablePC1 K).extractLsb' 28 28 = BitVec.allOnes 28) →
    ((permute tablePC1 K).extractLsb' 0 28 = 0#28 ∨ (permute tablePC1 K).extractLsb' 0 28 = BitVec.allOnes 28) →
    (∃ rk : RoundKey, ∀ r : Fin 16, (keysched K)[r] = rk) ∧
    ∀ B : Block, desEnc B (keysched K) = desDec B (keysched K)) ∧
  (∀ r : Fin 16, (keysched 0x0101010101010101#64)[r] = 0x000000000000#48) ∧
  ∀ r : Fin 16, (keysched 0xFEFEFEFEFEFEFEFE#64)[r] = 0xFFFFFFFFFFFF#48

/-- For every block B and every three schedules, tdes_dec(tdes_enc(B)) = B and tdes_enc(tdes_dec(B)) = B with the same
schedules. (States R177.) -/
def Obligations.TripleDesDecryptionInvertsEncryption : Prop :=
  ∀ (B : Block) (S : TripleKeySet), tdesDec (tdesEnc B S) S = B ∧ tdesEnc (tdesDec B S) S = B

/-- For every block B and schedule S, tdes_enc(B, S, S, S) = des_enc(B, S) and tdes_dec(B, S, S, S) = des_dec(B, S).
(Rests on R176.) -/
def Obligations.TripleDesWithEqualKeysIsDes : Prop :=
  ∀ (B : Block) (S : KeySchedule), tdesEnc B ⟨S, S, S⟩ = desEnc B S ∧ tdesDec B ⟨S, S, S⟩ = desDec B S

/-- In every state with BUSY = 0 and all three banks valid: each command of the sequence DESE1, DESD2, DESE3, each
issued and completed, with DOUT copied to DIN in between, goes on; so does TDESE; both leave the same DOUT; TDESE
leaves DIN as it was, and the sequence leaves in DIN the block between its second and third pass. The same of DESD3,
DESE2, DESD1 and TDESD. (States R178.) -/
def Obligations.TripleDesIsThreeSingleCommands : Prop :=
  ∀ s : State, s.status.busy = false → (∀ k, s.valid k = true) →
    (∃ s1 s2 s3 t, runCommand .dese1 s = .next s1 ∧ runCommand .desd2 s1.copyOut = .next s2 ∧
      runCommand .dese3 s2.copyOut = .next s3 ∧ runCommand .tdese s = .next t ∧
      t.dout = s3.dout ∧ t.din = s.din ∧ s3.din = s2.dout) ∧
    ∃ s1 s2 s3 t, runCommand .desd3 s = .next s1 ∧ runCommand .dese2 s1.copyOut = .next s2 ∧
      runCommand .desd1 s2.copyOut = .next s3 ∧ runCommand .tdesd s = .next t ∧
      t.dout = s3.dout ∧ t.din = s.din ∧ s3.din = s2.dout

/-- In every state, SRST and the assertion of reset go on, to the same state t: KEY, DIN, DOUT and CMD are zero, STATUS
reads 0x00 (BUSY = DONE = 0, KV1..KV3 = 0, ERR = 0), every offset of the register space reads 0x00, and a turn of
the engine changes nothing. The state after power-on reset has the same values. (That the content of the banks,
which is unspecified, is the same after both is the model's choice, notes/assumptions/4.md; so is what a turn of the
idle engine does, notes/assumptions/3.md.) (Rests on R36, R187.) -/
def Obligations.ResetAndSoftReset : Prop :=
  (∀ s : State, ∃ t, exec .srst s = .next t ∧ hostStep .reset s = .next t ∧
    t.key = Vector.replicate 24 0#8 ∧ t.din = Vector.replicate 8 0#8 ∧ t.dout = Vector.replicate 8 0#8 ∧
    t.cmd = 0x00#8 ∧ t.status = ⟨false, false, ⟨false, false, false⟩, .none⟩ ∧ t.status.byte = 0x00#8 ∧
    (∀ a, memRead t a = 0x00#8) ∧ engineTurn t = .next t) ∧
  State.reset.key = Vector.replicate 24 0#8 ∧ State.reset.din = Vector.replicate 8 0#8 ∧
  State.reset.dout = Vector.replicate 8 0#8 ∧ State.reset.cmd = 0x00#8 ∧
  State.reset.status = ⟨false, false, ⟨false, false, false⟩, .none⟩

/-- With BUSY = 0, CLRE goes on to the same state with ERR = 0; with BUSY = 1 it goes on to the same state with ERR_BUSY
recorded if ERR was 0; and it takes STATUS from 0x40 to 0x00. (States R186.) -/
def Obligations.ClearErrorCommand : Prop :=
  (∀ s : State, s.status.busy = false →
    exec .clre s = .next { s with status := { s.status with err := .none } }) ∧
  (∀ s : State, s.status.busy = true → exec .clre s = .next { s with status := { s.status with
    err := if s.status.err = .none then .busy else s.status.err } }) ∧
  ∀ s t : State, s.status.byte = 0x40#8 → exec .clre s = .next t → t.status.byte = 0x00#8

/-- For every state and code, the refusal of the code is the state with ERR set to the code if it was 0, and the very
same state otherwise. (Rests on R203, R209.) -/
def Obligations.RefusalRecordsFirstCode : Prop :=
  ∀ (s : State) (c : ErrCode),
    s.refuse c = if s.status.err = .none then { s with status := { s.status with err := c } } else s

/-- If a turn taken in a state goes on, then the same turn taken in that state with any other value of ERR goes on, and
the two states after it have the same KEY, DIN, DOUT, CMD, BUSY, DONE and KV1..KV3, and the same content in every
bank whose KVk is 1. (Rests on R203, 60_exceptions.md section 1.) -/
def Obligations.ErrGatesNothing : Prop :=
  ∀ (u : Turn) (s t : State) (e : ErrCode), turnStep u s = .next t →
    ∃ t2, turnStep u { s with status := { s.status with err := e } } = .next t2 ∧
      t2.key = t.key ∧ t2.din = t.din ∧ t2.dout = t.dout ∧ t2.cmd = t.cmd ∧
      t2.status.busy = t.status.busy ∧ t2.status.done = t.status.done ∧ t2.status.kv = t.status.kv ∧
      ∀ k, t.valid k = true → t2.bank k = t.bank k

/-- SRST resets, whatever BUSY is; any other byte is refused with ERR_BUSY while BUSY = 1; with BUSY = 0, CLRE clears
ERR, an illegal byte is refused with ERR_ILLEGAL, an operation command that needs a bank whose KV is 0 is refused
with ERR_NOKEY, and any other operation command is accepted: CMD holds the byte, BUSY = 1, DONE = 0, KV is 0 for the
banks it generates and as before for the others, and KEY, DIN, DOUT, ERR and the other banks are unchanged. (Rests
on R208, R234.) -/
def Obligations.IssueTestsInOrder : Prop :=
  ∀ (c : Byte) (s : State),
    (c = 0x02#8 → issue c s = .next s.resetCore) ∧
    (c ≠ 0x02#8 → s.status.busy = true → issue c s = .next (s.refuse .busy)) ∧
    (s.status.busy = false →
      (c = 0x01#8 → issue c s = .next s.clearErr) ∧
      (decode c = .illegal → issue c s = .next (s.refuse .illegal)) ∧
      ∀ i : Instr, decode c = .command i → i.isOperation = true →
        ((∃ k ∈ i.needs, s.valid k = false) → issue c s = .next (s.refuse .noKey)) ∧
        ((∀ k ∈ i.needs, s.valid k = true) → ∃ t, issue c s = .next t ∧
          t.cmd = c ∧ t.status.busy = true ∧ t.status.done = false ∧ t.status.err = s.status.err ∧
          t.key = s.key ∧ t.din = s.din ∧ t.dout = s.dout ∧
          ∀ k, (k ∈ i.generates → t.valid k = false) ∧
            (k ∉ i.generates → t.valid k = s.valid k ∧ t.bank k = s.bank k)))

/-- With BUSY = 0, KGENk is accepted: CMD holds its byte, BUSY = 1, DONE = 0, KVk = 0, and KEY, DIN, DOUT, ERR and the
other banks and flags are unchanged. Its completion then leaves KS[k] = keysched of the eight key bytes of slot k,
KVk = 1, BUSY = 0, DONE = 1, and KEY, DIN, DOUT, ERR and the other banks and flags as they were before it was
issued. With BUSY = 1 it is refused with ERR_BUSY and changes nothing else. The worked example for the key
0x6162636465666768. (States R155.) -/
def Obligations.KgenkGeneratesOneBank : Prop :=
  (∀ (k : Slot) (s : State), s.status.busy = false →
    ∃ t u, exec (.kgen k) s = .next t ∧ complete t = .next u ∧
      t.cmd = PerSlot.get ⟨0x11#8, 0x12#8, 0x13#8⟩ k ∧ t.key = s.key ∧ t.din = s.din ∧ t.dout = s.dout ∧
      t.status = { s.status with busy := true, done := false, kv := s.status.kv.set k false } ∧
      (∀ j, j ≠ k → t.bank j = s.bank j) ∧
      u.cmd = t.cmd ∧ u.key = s.key ∧ u.din = s.din ∧ u.dout = s.dout ∧
      u.status = { s.status with busy := false, done := true, kv := s.status.kv.set k true } ∧
      u.ks = s.ks.set k (keysched (blockOfBytes
        (Vector.ofFn fun i => s.key[k.keyBase + i.val]'(by have := k.keyBase_le; omega))))) ∧
  (∀ (k : Slot) (s : State), s.status.busy = true →
    exec (.kgen k) s = .next { s with status := { s.status with
        err := if s.status.err = .none then .busy else s.status.err } }) ∧
  (keysched 0x6162636465666768#64)[0] = 0xE0BE66132A82#48 ∧ (keysched 0x6162636465666768#64)[15] = 0xF0BE26A34280#48

/-- With BUSY = 0, KGENA is accepted: CMD = 0x10, BUSY = 1, DONE = 0, KV1..KV3 = 0, and KEY, DIN, DOUT and ERR are
unchanged. Its completion then leaves every KS[k] = keysched of the key of slot k, KV1..KV3 = 1, BUSY = 0, DONE = 1,
and KEY, DIN, DOUT, ERR as they were. With BUSY = 1 it is refused with ERR_BUSY and changes nothing else. (Rests on
R156.) -/
def Obligations.KgenaGeneratesAllBanks : Prop :=
  (∀ s : State, s.status.busy = false →
    ∃ t u, exec .kgena s = .next t ∧ complete t = .next u ∧
      t.cmd = 0x10#8 ∧ t.key = s.key ∧ t.din = s.din ∧ t.dout = s.dout ∧
      t.status = { s.status with busy := true, done := false, kv := ⟨false, false, false⟩ } ∧
      u.cmd = 0x10#8 ∧ u.key = s.key ∧ u.din = s.din ∧ u.dout = s.dout ∧
      u.status = { s.status with busy := false, done := true, kv := ⟨true, true, true⟩ } ∧
      u.ks = ⟨keysched (s.keyBlock .k1), keysched (s.keyBlock .k2), keysched (s.keyBlock .k3)⟩) ∧
  ∀ s : State, s.status.busy = true →
    exec .kgena s = .next { s with status := { s.status with
        err := if s.status.err = .none then .busy else s.status.err } }

/-- In every state with BUSY = 0, KGEN1, KGEN2, KGEN3, each issued and completed, go on, KGENA issued and completed goes
on, and both leave the same KEY, DIN, DOUT, KS and STATUS. (Rests on R156, 92_eei_decisions.md D6.) -/
def Obligations.KgenaIsThreeSingleGenerations : Prop :=
  ∀ s : State, s.status.busy = false →
    ∃ s1 s2 s3 t, runCommand .kgen1 s = .next s1 ∧ runCommand .kgen2 s1 = .next s2 ∧
      runCommand .kgen3 s2 = .next s3 ∧ runCommand .kgena s = .next t ∧
      t.key = s3.key ∧ t.din = s3.din ∧ t.dout = s3.dout ∧ t.ks = s3.ks ∧ t.status = s3.status

/-- With BUSY = 0 and KVk = 1, DESEk goes on to the same state with CMD = 0x20 + k, BUSY = 1, DONE = 0; issued and then
completed it leaves the state before it with that CMD, DOUT the bytes of des_enc(be(DIN), KS[k]), BUSY = 0, DONE =
1, and nothing else changed. With BUSY = 1 it is refused with ERR_BUSY, and with BUSY = 0 and KVk = 0 with
ERR_NOKEY, and then only ERR may change. The worked example with the key and block 0x6162636465666768. (States
R130.) -/
def Obligations.DesekEncryptsDinToDout : Prop :=
  (∀ (k : Slot) (s : State), s.status.busy = false → s.valid k = true →
    exec (.dese k) s = .next { s with cmd := PerSlot.get ⟨0x21#8, 0x22#8, 0x23#8⟩ k, status := { s.status with busy := true, done := false } } ∧
    runCommand (.dese k) s = .next { s with
      cmd := PerSlot.get ⟨0x21#8, 0x22#8, 0x23#8⟩ k,
      dout := bytesOfBlock (desEnc (blockOfBytes s.din) (s.bank k)),
      status := { s.status with busy := false, done := true } }) ∧
  (∀ (k : Slot) (s : State), s.status.busy = true →
    exec (.dese k) s = .next { s with status := { s.status with
        err := if s.status.err = .none then .busy else s.status.err } }) ∧
  (∀ (k : Slot) (s : State), s.status.busy = false → s.valid k = false →
    exec (.dese k) s = .next { s with status := { s.status with
        err := if s.status.err = .none then .noKey else s.status.err } }) ∧
  bytesOfBlock (desEnc 0x6162636465666768#64 (keysched 0x6162636465666768#64)) =
    #v[0x2A#8, 0x8D#8, 0x69#8, 0xDE#8, 0x9D#8, 0x5F#8, 0xDF#8, 0xF9#8]

/-- With BUSY = 0 and KVk = 1, DESDk goes on to the same state with CMD = 0x30 + k, BUSY = 1, DONE = 0; issued and then
completed it leaves the state before it with that CMD, DOUT the bytes of des_dec(be(DIN), KS[k]), BUSY = 0, DONE =
1, and nothing else changed. With BUSY = 1 it is refused with ERR_BUSY, and with BUSY = 0 and KVk = 0 with
ERR_NOKEY, and then only ERR may change. The worked example with the key 0x6162636465666768. (States R131.) -/
def Obligations.DesdkDecryptsDinToDout : Prop :=
  (∀ (k : Slot) (s : State), s.status.busy = false → s.valid k = true →
    exec (.desd k) s = .next { s with cmd := PerSlot.get ⟨0x31#8, 0x32#8, 0x33#8⟩ k, status := { s.status with busy := true, done := false } } ∧
    runCommand (.desd k) s = .next { s with
      cmd := PerSlot.get ⟨0x31#8, 0x32#8, 0x33#8⟩ k,
      dout := bytesOfBlock (desDec (blockOfBytes s.din) (s.bank k)),
      status := { s.status with busy := false, done := true } }) ∧
  (∀ (k : Slot) (s : State), s.status.busy = true →
    exec (.desd k) s = .next { s with status := { s.status with
        err := if s.status.err = .none then .busy else s.status.err } }) ∧
  (∀ (k : Slot) (s : State), s.status.busy = false → s.valid k = false →
    exec (.desd k) s = .next { s with status := { s.status with
        err := if s.status.err = .none then .noKey else s.status.err } }) ∧
  bytesOfBlock (desDec 0x2A8D69DE9D5FDFF9#64 (keysched 0x6162636465666768#64)) =
    #v[0x61#8, 0x62#8, 0x63#8, 0x64#8, 0x65#8, 0x66#8, 0x67#8, 0x68#8]

/-- With BUSY = 0 and KV1 = KV2 = KV3 = 1, TDESE goes on to the same state with CMD = 0x40, BUSY = 1, DONE = 0; issued
and then completed it leaves the state before it with that CMD, DOUT the bytes of tdes_enc(be(DIN), KS), BUSY = 0,
DONE = 1, and nothing else changed. With BUSY = 1 it is refused with ERR_BUSY, and with BUSY = 0 and some KVk = 0
with ERR_NOKEY, and then only ERR may change. tdes_enc encrypts under K1, decrypts under K2, encrypts under K3.
(Rests on R171, R173.) -/
def Obligations.TdeseEncryptsDinToDout : Prop :=
  (∀ s : State, s.status.busy = false → (∀ k, s.valid k = true) →
    exec .tdese s = .next { s with cmd := 0x40#8, status := { s.status with busy := true, done := false } } ∧
    runCommand .tdese s = .next { s with
      cmd := 0x40#8,
      dout := bytesOfBlock (tdesEnc (blockOfBytes s.din) s.ks),
      status := { s.status with busy := false, done := true } }) ∧
  (∀ s : State, s.status.busy = true →
    exec .tdese s = .next { s with status := { s.status with
        err := if s.status.err = .none then .busy else s.status.err } }) ∧
  (∀ (k : Slot) (s : State), s.status.busy = false → s.valid k = false →
    exec .tdese s = .next { s with status := { s.status with
        err := if s.status.err = .none then .noKey else s.status.err } }) ∧
  ∀ (B : Block) (S1 S2 S3 : KeySchedule), tdesEnc B ⟨S1, S2, S3⟩ = desEnc (desDec (desEnc B S1) S2) S3

/-- With BUSY = 0 and KV1 = KV2 = KV3 = 1, TDESD goes on to the same state with CMD = 0x50, BUSY = 1, DONE = 0; issued
and then completed it leaves the state before it with that CMD, DOUT the bytes of tdes_dec(be(DIN), KS), BUSY = 0,
DONE = 1, and nothing else changed. With BUSY = 1 it is refused with ERR_BUSY, and with BUSY = 0 and some KVk = 0
with ERR_NOKEY, and then only ERR may change. tdes_dec decrypts under K3, encrypts under K2, decrypts under K1.
(Rests on R172, R174.) -/
def Obligations.TdesdDecryptsDinToDout : Prop :=
  (∀ s : State, s.status.busy = false → (∀ k, s.valid k = true) →
    exec .tdesd s = .next { s with cmd := 0x50#8, status := { s.status with busy := true, done := false } } ∧
    runCommand .tdesd s = .next { s with
      cmd := 0x50#8,
      dout := bytesOfBlock (tdesDec (blockOfBytes s.din) s.ks),
      status := { s.status with busy := false, done := true } }) ∧
  (∀ s : State, s.status.busy = true →
    exec .tdesd s = .next { s with status := { s.status with
        err := if s.status.err = .none then .busy else s.status.err } }) ∧
  (∀ (k : Slot) (s : State), s.status.busy = false → s.valid k = false →
    exec .tdesd s = .next { s with status := { s.status with
        err := if s.status.err = .none then .noKey else s.status.err } }) ∧
  ∀ (B : Block) (S1 S2 S3 : KeySchedule), tdesDec B ⟨S1, S2, S3⟩ = desDec (desEnc (desDec B S3) S2) S1

/-- For every operation command accepted with BUSY = 0, every offset but CMD, STATUS and, for a cipher command, DOUT
reads after the acceptance, and after the completion, as it did before the command; CLRE leaves every offset but
STATUS as it was. (Rests on R78, R52, R185.) -/
def Obligations.CommandsTouchOnlyTheirRegisters : Prop :=
  (∀ (i : Instr) (s : State), i.isOperation = true → s.status.busy = false → (∀ k ∈ i.needs, s.valid k = true) →
    ∃ t u, exec i s = .next t ∧ complete t = .next u ∧
      ∀ a : Offset, a ≠ 0x28#6 → a ≠ 0x29#6 → (i.needs = [] ∨ a < 0x20#6 ∨ 0x27#6 < a) →
        memRead t a = memRead s a ∧ memRead u a = memRead s a) ∧
  ∀ s : State, s.status.busy = false →
    ∃ t, exec .clre s = .next t ∧ ∀ a : Offset, a ≠ 0x29#6 → memRead t a = memRead s a

/-- KEY, DIN, CMD, STATUS and the reserved offsets read as R52 says at any time; DOUT reads as its byte unless a cipher
command is pending (nothing is said of the byte then); CMD is a cipher command exactly if CMD[7:4] is 2, 3, 4 or 5;
and a host read of any offset always goes on, hands the byte to the host, and leaves every register of the core as
it was. (States R52.) -/
def Obligations.MemReadMap : Prop :=
  (∀ s : State,
    (∀ i (h : i < 24), memRead s (BitVec.ofNat 6 i) = s.key[i]) ∧
    (∀ i (h : i < 8), memRead s (BitVec.ofNat 6 (0x18 + i)) = s.din[i]) ∧
    (∀ i (h : i < 8), (s.status.busy = false ∨ isCipherByte s.cmd = false) →
      memRead s (BitVec.ofNat 6 (0x20 + i)) = s.dout[i]) ∧
    memRead s 0x28#6 = s.cmd ∧ memRead s 0x29#6 = s.status.byte ∧
    (∀ a : Offset, 0x2A#6 ≤ a → memRead s a = 0x00#8) ∧
    ∀ a : Offset, ∃ t, hostStep (.read a) s = .next t ∧ t.reads = memRead s a :: s.reads ∧ SameCore s t) ∧
  ∀ c : Byte, isCipherByte c = true ↔
    c.extractLsb' 4 4 = 0x2#4 ∨ c.extractLsb' 4 4 = 0x3#4 ∨ c.extractLsb' 4 4 = 0x4#4 ∨ c.extractLsb' 4 4 = 0x5#4

/-- A write to KEY or DIN stores the byte when BUSY = 0 and is refused with ERR_BUSY when BUSY = 1; a write to CMD
issues the byte; a write to any other offset does nothing. (States R53.) -/
def Obligations.MemWriteMap : Prop :=
  ∀ (s : State) (v : Byte),
    (∀ i (h : i < 24), s.status.busy = false →
      memWrite (BitVec.ofNat 6 i) v s = .next { s with key := s.key.set i v }) ∧
    (∀ i (h : i < 8), s.status.busy = false →
      memWrite (BitVec.ofNat 6 (0x18 + i)) v s = .next { s with din := s.din.set i v }) ∧
    (∀ a : Offset, a ≤ 0x1F#6 → s.status.busy = true → memWrite a v s = .next (s.refuse .busy)) ∧
    memWrite 0x28#6 v s = issue v s ∧
    ∀ a : Offset, 0x20#6 ≤ a → a ≠ 0x28#6 → memWrite a v s = .next s

/-- Whatever BUSY is: the offsets 0x2A..0x3F read 0x00; a write to one of them, to DOUT or to STATUS leaves the whole
state as it was, ERR included. (States R54, R56.) -/
def Obligations.ReservedAndReadOnlyOffsets : Prop :=
  ∀ (s : State) (a : Offset) (v : Byte),
    (0x2A#6 ≤ a → memRead s a = 0x00#8 ∧ hostStep (.write a v) s = .next s) ∧
    ((0x20#6 ≤ a ∧ a ≤ 0x27#6 ∨ a = 0x29#6) → hostStep (.write a v) s = .next s)

/-- With BUSY = 0, a write of v to an offset a up to 0x1F goes on; then a reads v, every other offset reads as before,
and KS, DOUT, CMD and STATUS are unchanged. (Rests on R53, R22, R23, R158.) -/
def Obligations.DataWriteStoresOneByte : Prop :=
  ∀ (s : State) (a : Offset) (v : Byte), s.status.busy = false → a ≤ 0x1F#6 →
    ∃ t, memWrite a v s = .next t ∧ memRead t a = v ∧ (∀ b, b ≠ a → memRead t b = memRead s b) ∧
      t.ks = s.ks ∧ t.dout = s.dout ∧ t.cmd = s.cmd ∧ t.status = s.status

/-- For every buffer of eight bytes, be of it is the sum of B[i]*256^(7-i); the byte at offset 0x18 + i is byte i of the
input block, the byte at 8(k-1) + i byte i of key k, and, unless a cipher command is pending, the byte at 0x20 + i
byte i of the output block; DES bit 1 of the input block is bit 7 of the byte at 0x18 and DES bit 64 is bit 0 of the
byte at 0x1F. (States R57.) -/
def Obligations.BlocksAreBigEndian : Prop :=
  (∀ b : Vector Byte 8, (blockOfBytes b).toNat =
    b[0].toNat * 256 ^ 7 + b[1].toNat * 256 ^ 6 + b[2].toNat * 256 ^ 5 + b[3].toNat * 256 ^ 4 +
      b[4].toNat * 256 ^ 3 + b[5].toNat * 256 ^ 2 + b[6].toNat * 256 + b[7].toNat) ∧
  ∀ s : State,
    (∀ i, i < 8 → memRead s (BitVec.ofNat 6 (0x18 + i)) = byteOfBlock s.dinBlock i ∧
      (∀ k : Slot, memRead s (BitVec.ofNat 6 (k.keyBase + i)) = byteOfBlock (s.keyBlock k) i) ∧
      (s.cipherPending = false → memRead s (BitVec.ofNat 6 (0x20 + i)) = byteOfBlock s.doutBlock i)) ∧
    s.dinBlock.getMsbD 0 = (memRead s 0x18#6).getLsbD 7 ∧ s.dinBlock.getMsbD 63 = (memRead s 0x1F#6).getLsbD 0

/-- In the byte that STATUS reads as, bit 0 is BUSY, bit 1 DONE, bits 2 to 4 KV1 to KV3, and bits 7:5 are 0, 1, 2 or 3
for no refusal, ERR_ILLEGAL, ERR_NOKEY, ERR_BUSY; the codes 4 to 7 never occur. (Rests on R27, R29.) -/
def Obligations.StatusByteLayout : Prop :=
  (∀ s : State,
    (memRead s 0x29#6).getLsbD 0 = s.status.busy ∧ (memRead s 0x29#6).getLsbD 1 = s.status.done ∧
    (memRead s 0x29#6).getLsbD 2 = s.valid .k1 ∧ (memRead s 0x29#6).getLsbD 3 = s.valid .k2 ∧
    (memRead s 0x29#6).getLsbD 4 = s.valid .k3 ∧
    (memRead s 0x29#6).extractLsb' 5 3 = s.status.err.code ∧ (memRead s 0x29#6).extractLsb' 5 3 < 4#3) ∧
  ErrCode.none.code = 0#3 ∧ ErrCode.illegal.code = 1#3 ∧ ErrCode.noKey.code = 2#3 ∧ ErrCode.busy.code = 3#3

/-- With BUSY = 1, a write of any byte to an offset up to 0x1F, and a write to CMD of any byte but 0x02, legal or
illegal, goes on to the same state with ERR_BUSY recorded if ERR was 0: the byte is discarded and nothing else
changes. (States R207.) -/
def Obligations.BusyWindowRefusesWrites : Prop :=
  ∀ (s : State) (a : Offset) (v : Byte), s.status.busy = true → (a ≤ 0x1F#6 ∨ a = 0x28#6 ∧ v ≠ 0x02#8) →
    hostStep (.write a v) s = .next { s with status := { s.status with
      err := if s.status.err = .none then .busy else s.status.err } }

/-- If the next turn is a host write of the byte c to CMD and c decodes to the command i, the step is exec of i in the
state whose turns are the rest; if c is illegal, the step refuses it in that state. (How turns are held is the
model's choice: notes/assumptions/1.md.) (Rests on R26, R234, R64.) -/
def Obligations.StepRunsTheIssuedCommand : Prop :=
  (∀ (s : State) (c : Byte) (i : Instr) (ts : List Turn),
    s.turns = .host (.write 0x28#6 c) :: ts → decode c = .command i → step s = exec i { s with turns := ts }) ∧
  ∀ (s : State) (c : Byte) (ts : List Turn), s.turns = .host (.write 0x28#6 c) :: ts → decode c = .illegal →
    step s = .next (State.refuse { s with turns := ts } (if s.status.busy then .busy else .illegal))

/-- If the next turn is a host access, the step is that access; if it is the engine's, the step completes the pending
operation when BUSY = 1 and changes nothing but the list of turns when BUSY = 0; with no turn left, a busy core
completes and an idle one stays exactly as it is. (How turns are held, and what happens with none left, are the
model's choices: notes/assumptions/1.md, 2.md, 3.md.) (Rests on R20, R64, R220, R237.) -/
def Obligations.StepTakesTheNextTurn : Prop :=
  ∀ s : State,
    (∀ op ts, s.turns = .host op :: ts → step s = hostStep op { s with turns := ts }) ∧
    (∀ ts, s.turns = .engine :: ts →
      (s.status.busy = true → step s = complete { s with turns := ts }) ∧
      (s.status.busy = false → step s = .next { s with turns := ts })) ∧
    (s.turns = [] →
      (s.status.busy = true → step s = complete s) ∧ (s.status.busy = false → step s = .next s))

/-- A turn of the engine with BUSY = 0 changes nothing. With BUSY = 1, if it goes on, then BUSY = 0, DONE = 1, and KEY,
DIN, CMD and ERR are unchanged; every bank that the command in CMD does not generate, and its KV flag, are
unchanged; if CMD is a cipher command KS and KV1..KV3 are unchanged, and otherwise DOUT is unchanged. (That a turn
of the engine with BUSY = 0 is a step that changes nothing is the model's reading: notes/assumptions/3.md.) (Rests
on R20, R236, R24, R25.) -/
def Obligations.EngineStepFrame : Prop :=
  ∀ s : State,
    (s.status.busy = false → engineTurn s = .next s) ∧
    ∀ t, s.status.busy = true → engineTurn s = .next t →
      t.status.busy = false ∧ t.status.done = true ∧ t.key = s.key ∧ t.din = s.din ∧ t.cmd = s.cmd ∧
      t.status.err = s.status.err ∧
      (∀ i, decode s.cmd = .command i → ∀ k, k ∉ i.generates → t.bank k = s.bank k ∧ t.valid k = s.valid k) ∧
      (isCipherByte s.cmd = true → t.ks = s.ks ∧ t.status.kv = s.status.kv) ∧
      (isCipherByte s.cmd = false → t.dout = s.dout)

/-- The state after reset meets the protocol invariant and the invariant of the valid banks. (Rests on R36, R28.) -/
def Obligations.InvariantsHoldAfterReset : Prop :=
  ProtocolInv State.reset ∧ ValidBanksGenerated State.reset

/-- From every state that meets the protocol invariant (BUSY and DONE never both 1; before any operation command CMD is
0 and no bank valid; otherwise CMD holds an operation command; a pending command has the banks it needs valid and
the banks it generates invalid), a step that goes on leads to a state that meets it. (Rests on R26, R28, R31, R236,
R241.) -/
def Obligations.EveryStepKeepsTheProtocol : Prop :=
  ∀ s t : State, ProtocolInv s → step s = .next t → ProtocolInv t

/-- From every state in which each bank with KVk = 1 holds keysched of some key, a step that goes on leads to such a
state. (Rests on R25, R27, R155, R158.) -/
def Obligations.EveryStepKeepsValidBanksGenerated : Prop :=
  ∀ s t : State, ValidBanksGenerated s → step s = .next t → ValidBanksGenerated t

/-- From every state that meets the protocol invariant, the step answers a next state (no fault, no refusal of the
model), and so does a run of any number of steps. (Rests on R202, R236, R208.) -/
def Obligations.ProtocolStepsGoOn : Prop :=
  (∀ s : State, ProtocolInv s → goesOn (step s)) ∧
  ∀ (n : Nat) (s : State), ProtocolInv s → ∃ t, run n s = .next t

/-- If BUSY = 1 before and after a step, then KEY, DIN, DOUT, KS, CMD, DONE and KV1..KV3 are the same before and after
it. (Rests on R31, R64, R235.) -/
def Obligations.OperandsStableInBusyWindow : Prop :=
  ∀ s t : State, step s = .next t → s.status.busy = true → t.status.busy = true →
    t.key = s.key ∧ t.din = s.din ∧ t.dout = s.dout ∧ t.ks = s.ks ∧ t.cmd = s.cmd ∧
    t.status.done = s.status.done ∧ t.status.kv = s.status.kv

/-- In a state of the protocol with KVk = 1: if KVk is still 1 after a step, KS[k] is unchanged; if it is 0 after the
step, the step's turn was a reset, SRST, or the issue with BUSY = 0 of a command that generates bank k. (Rests on
R25, R158.) -/
def Obligations.ValidBankLifetime : Prop :=
  ∀ (s t : State) (k : Slot), ProtocolInv s → step s = .next t → s.valid k = true →
    (t.valid k = true → t.bank k = s.bank k) ∧
    (t.valid k = false → ∃ u us, s.turns = u :: us ∧
      (u.resets = true ∨
        s.status.busy = false ∧ ∃ i : Instr, k ∈ i.generates ∧ u = .host (.write 0x28#6 (encode i))))

/-- If a step changes DOUT, its turn was a reset or SRST, or BUSY was 1 with a cipher command pending and is 0 with DONE
= 1 after the step. (Rests on R24, R235, R236.) -/
def Obligations.DoutWrittenOnlyByCipherOrReset : Prop :=
  ∀ s t : State, step s = .next t → t.dout ≠ s.dout →
    (∃ u us, s.turns = u :: us ∧ u.resets = true) ∨
    (s.status.busy = true ∧ isCipherByte s.cmd = true ∧ t.status.busy = false ∧ t.status.done = true)

/-- If ERR is not 0 before a step, it is the same after it, or it is 0 after it and the step's turn was CLRE with BUSY =
0, SRST or reset. If ERR is 0 before and not after, the turn was a host write, and nothing else of the state
changed. (Rests on R29, R202, R203, R209.) -/
def Obligations.ErrIsStickyAndPrecise : Prop :=
  ∀ s t : State, step s = .next t →
    (s.status.err ≠ .none → t.status.err = s.status.err ∨ t.status.err = .none ∧
      ∃ u us, s.turns = u :: us ∧
        (u.resets = true ∨ s.status.busy = false ∧ u = .host (.write 0x28#6 0x01#8))) ∧
    (s.status.err = .none → t.status.err ≠ .none → ∃ a v us, s.turns = .host (.write a v) :: us ∧
      t = { s with turns := us, status := { s.status with err := t.status.err } })

/-- If two states are the same but for the content of banks whose KVk is 0, and one meets the protocol invariant, then
after any number of steps of the first that goes on, the second has gone on too, and the two states are again the
same but for banks whose KVk is 0: the host has read the same bytes and every register it can read is equal. (That a
byte of DOUT read while a cipher command is pending is the same in both is the model's free value,
notes/assumptions/5.md.) (Rests on R25, R206, R241, 93_implementation_defined.md U2.) -/
def Obligations.InvalidBanksAreUnobservable : Prop :=
  ∀ (n : Nat) (s t s2 : State), ProtocolInv s → SameButInvalidBanks s t → run n s = .next s2 →
    ∃ t2, run n t = .next t2 ∧ SameButInvalidBanks s2 t2

/-- For a cipher command i and two idle states in which the banks it needs are valid: if DIN and those banks agree in
both, then the command, issued and completed in each, goes on and leaves the same DOUT, whatever else differs.
(Rests on R133, R175, R65.) -/
def Obligations.CipherResultDependsOnBlockAndBanksOnly : Prop :=
  ∀ (i : Instr) (s t : State), i.needs ≠ [] → s.status.busy = false → t.status.busy = false →
    (∀ k ∈ i.needs, s.valid k = true ∧ t.valid k = true ∧ t.bank k = s.bank k) → t.din = s.din →
    ∃ s2 t2, runCommand i s = .next s2 ∧ runCommand i t = .next t2 ∧ t2.dout = s2.dout

/-- If BUSY = 1 with an operation command in CMD, and no turn to come is a reset or SRST, then within as many steps as
there are turns to come and one more, every one of which goes on, a state is reached with BUSY = 0 and DONE = 1 for
that command. (That the engine gets its turn at the latest when the turns run out is how the model says fairness:
notes/assumptions/2.md.) (Rests on R237, R231.) -/
def Obligations.PendingOperationEventuallyCompletes : Prop :=
  ∀ (s : State) (i : Instr), s.status.busy = true → decode s.cmd = .command i → i.isOperation = true →
    (∀ u ∈ s.turns, u.resets = false) →
    ∃ n t, n ≤ s.turns.length + 1 ∧ run n s = .next t ∧
      t.status.busy = false ∧ t.status.done = true ∧ t.cmd = s.cmd

/-- In a busy state of the protocol, for all lists of host reads before and after the engine's turn, the run of these
turns goes on, and all registers of the core are as they are after the completion step alone. (Rests on R61, R237,
R89.) -/
def Obligations.PollingDoesNotChangeTheResult : Prop :=
  ∀ (s : State) (before after : List Offset), ProtocolInv s → s.status.busy = true →
    ∃ t u, complete s = .next u ∧
      run (before.length + 1 + after.length)
        { s with turns := before.map (fun a => .host (.read a)) ++ .engine :: after.map (fun a => .host (.read a)) } =
          .next t ∧ SameCore u t
end

