-- ==== Sys2Proof/Laws/State.lean ====
section
/-! SUPPORT. One lemma for each field and each update of the state, all true by `rfl`, so that no proof unfolds a record
update; the same for `STATUS`; and the laws of the slots. -/

namespace Sys2Proof

variable {α : Type}

/-! ### Slots -/

theorem Slot.mem_all (k : Slot) : k ∈ Slot.all := by cases k <;> decide

theorem Slot.forall_iff {p : Slot → Prop} : (∀ k, p k) ↔ p .k1 ∧ p .k2 ∧ p .k3 :=
  ⟨fun h => ⟨h _, h _, h _⟩, fun h k => by cases k; exacts [h.1, h.2.1, h.2.2]⟩

@[simp] theorem PerSlot.get_set_self (p : PerSlot α) (k : Slot) (v : α) : (p.set k v).get k = v := by cases k <;> rfl

theorem PerSlot.get_set_of_ne (p : PerSlot α) {j k : Slot} (h : j ≠ k) (v : α) : (p.set k v).get j = p.get j := by
  cases j <;> cases k <;> first | rfl | exact absurd rfl h

theorem PerSlot.get_set (p : PerSlot α) (j k : Slot) (v : α) : (p.set k v).get j = if j = k then v else p.get j := by
  cases j <;> cases k <;> rfl

@[ext] theorem PerSlot.ext_get {p q : PerSlot α} (h : ∀ k, p.get k = q.get k) : p = q := by
  cases p; cases q
  have h1 := h .k1
  have h2 := h .k2
  have h3 := h .k3
  simp only [PerSlot.get] at h1 h2 h3
  rw [h1, h2, h3]

end Sys2Proof

namespace Sys2Proof.Machine

variable (s : State) (st : Status)

/-! ### The fields of `STATUS` -/

@[simp] theorem Status.accept_busy : (st.accept).busy = true := rfl
@[simp] theorem Status.accept_done : (st.accept).done = false := rfl
@[simp] theorem Status.accept_kv : (st.accept).kv = st.kv := rfl
@[simp] theorem Status.accept_err : (st.accept).err = st.err := rfl

@[simp] theorem Status.finish_busy : (st.finish).busy = false := rfl
@[simp] theorem Status.finish_done : (st.finish).done = true := rfl
@[simp] theorem Status.finish_kv : (st.finish).kv = st.kv := rfl
@[simp] theorem Status.finish_err : (st.finish).err = st.err := rfl

@[simp] theorem Status.setKv_busy (k : Slot) (b : Bool) : (st.setKv k b).busy = st.busy := rfl
@[simp] theorem Status.setKv_done (k : Slot) (b : Bool) : (st.setKv k b).done = st.done := rfl
@[simp] theorem Status.setKv_kv (k : Slot) (b : Bool) : (st.setKv k b).kv = st.kv.set k b := rfl
@[simp] theorem Status.setKv_err (k : Slot) (b : Bool) : (st.setKv k b).err = st.err := rfl

@[simp] theorem Status.clearErr_busy : (st.clearErr).busy = st.busy := rfl
@[simp] theorem Status.clearErr_done : (st.clearErr).done = st.done := rfl
@[simp] theorem Status.clearErr_kv : (st.clearErr).kv = st.kv := rfl
@[simp] theorem Status.clearErr_err : (st.clearErr).err = .none := rfl

@[simp] theorem Status.recordErr_busy (c : ErrCode) : (st.recordErr c).busy = st.busy := by
  unfold Status.recordErr
  split <;> rfl

@[simp] theorem Status.recordErr_done (c : ErrCode) : (st.recordErr c).done = st.done := by
  unfold Status.recordErr
  split <;> rfl

@[simp] theorem Status.recordErr_kv (c : ErrCode) : (st.recordErr c).kv = st.kv := by
  unfold Status.recordErr
  split <;> rfl

theorem Status.recordErr_err (c : ErrCode) : (st.recordErr c).err = if st.err = .none then c else st.err := by
  unfold Status.recordErr
  split <;> rfl

theorem Status.ext_fields {a b : Status} (hb : a.busy = b.busy) (hd : a.done = b.done)
    (hk : ∀ k, a.kv.get k = b.kv.get k) (he : a.err = b.err) : a = b := by
  obtain ⟨b1, d1, k1, e1⟩ := a
  obtain ⟨b2, d2, k2, e2⟩ := b
  obtain rfl : k1 = k2 := PerSlot.ext_get hk
  simp_all

/-! ### The fields of the state -/

@[simp] theorem State.setBank_key (k : Slot) (S : KeySchedule) : (s.setBank k S).key = s.key := rfl
@[simp] theorem State.setBank_din (k : Slot) (S : KeySchedule) : (s.setBank k S).din = s.din := rfl
@[simp] theorem State.setBank_dout (k : Slot) (S : KeySchedule) : (s.setBank k S).dout = s.dout := rfl
@[simp] theorem State.setBank_ks (k : Slot) (S : KeySchedule) : (s.setBank k S).ks = s.ks.set k S := rfl
@[simp] theorem State.setBank_cmd (k : Slot) (S : KeySchedule) : (s.setBank k S).cmd = s.cmd := rfl
@[simp] theorem State.setBank_status (k : Slot) (S : KeySchedule) : (s.setBank k S).status = s.status := rfl
@[simp] theorem State.setBank_turns (k : Slot) (S : KeySchedule) : (s.setBank k S).turns = s.turns := rfl
@[simp] theorem State.setBank_reads (k : Slot) (S : KeySchedule) : (s.setBank k S).reads = s.reads := rfl
@[simp] theorem State.setBank_draws (k : Slot) (S : KeySchedule) : (s.setBank k S).draws = s.draws := rfl

@[simp] theorem State.setKv_key (k : Slot) (b : Bool) : (s.setKv k b).key = s.key := rfl
@[simp] theorem State.setKv_din (k : Slot) (b : Bool) : (s.setKv k b).din = s.din := rfl
@[simp] theorem State.setKv_dout (k : Slot) (b : Bool) : (s.setKv k b).dout = s.dout := rfl
@[simp] theorem State.setKv_ks (k : Slot) (b : Bool) : (s.setKv k b).ks = s.ks := rfl
@[simp] theorem State.setKv_cmd (k : Slot) (b : Bool) : (s.setKv k b).cmd = s.cmd := rfl
@[simp] theorem State.setKv_status (k : Slot) (b : Bool) : (s.setKv k b).status = s.status.setKv k b := rfl
@[simp] theorem State.setKv_turns (k : Slot) (b : Bool) : (s.setKv k b).turns = s.turns := rfl
@[simp] theorem State.setKv_reads (k : Slot) (b : Bool) : (s.setKv k b).reads = s.reads := rfl
@[simp] theorem State.setKv_draws (k : Slot) (b : Bool) : (s.setKv k b).draws = s.draws := rfl

@[simp] theorem State.setDout_key (v : Block) : (s.setDout v).key = s.key := rfl
@[simp] theorem State.setDout_din (v : Block) : (s.setDout v).din = s.din := rfl
@[simp] theorem State.setDout_dout (v : Block) : (s.setDout v).dout = bytesOfBlock v := rfl
@[simp] theorem State.setDout_ks (v : Block) : (s.setDout v).ks = s.ks := rfl
@[simp] theorem State.setDout_cmd (v : Block) : (s.setDout v).cmd = s.cmd := rfl
@[simp] theorem State.setDout_status (v : Block) : (s.setDout v).status = s.status := rfl
@[simp] theorem State.setDout_turns (v : Block) : (s.setDout v).turns = s.turns := rfl
@[simp] theorem State.setDout_reads (v : Block) : (s.setDout v).reads = s.reads := rfl
@[simp] theorem State.setDout_draws (v : Block) : (s.setDout v).draws = s.draws := rfl

@[simp] theorem State.setKeyByte_key (i : Nat) (v : Byte) : (s.setKeyByte i v).key = s.key.setIfInBounds i v := rfl
@[simp] theorem State.setKeyByte_din (i : Nat) (v : Byte) : (s.setKeyByte i v).din = s.din := rfl
@[simp] theorem State.setKeyByte_dout (i : Nat) (v : Byte) : (s.setKeyByte i v).dout = s.dout := rfl
@[simp] theorem State.setKeyByte_ks (i : Nat) (v : Byte) : (s.setKeyByte i v).ks = s.ks := rfl
@[simp] theorem State.setKeyByte_cmd (i : Nat) (v : Byte) : (s.setKeyByte i v).cmd = s.cmd := rfl
@[simp] theorem State.setKeyByte_status (i : Nat) (v : Byte) : (s.setKeyByte i v).status = s.status := rfl
@[simp] theorem State.setKeyByte_turns (i : Nat) (v : Byte) : (s.setKeyByte i v).turns = s.turns := rfl
@[simp] theorem State.setKeyByte_reads (i : Nat) (v : Byte) : (s.setKeyByte i v).reads = s.reads := rfl
@[simp] theorem State.setKeyByte_draws (i : Nat) (v : Byte) : (s.setKeyByte i v).draws = s.draws := rfl

@[simp] theorem State.setDinByte_key (i : Nat) (v : Byte) : (s.setDinByte i v).key = s.key := rfl
@[simp] theorem State.setDinByte_din (i : Nat) (v : Byte) : (s.setDinByte i v).din = s.din.setIfInBounds i v := rfl
@[simp] theorem State.setDinByte_dout (i : Nat) (v : Byte) : (s.setDinByte i v).dout = s.dout := rfl
@[simp] theorem State.setDinByte_ks (i : Nat) (v : Byte) : (s.setDinByte i v).ks = s.ks := rfl
@[simp] theorem State.setDinByte_cmd (i : Nat) (v : Byte) : (s.setDinByte i v).cmd = s.cmd := rfl
@[simp] theorem State.setDinByte_status (i : Nat) (v : Byte) : (s.setDinByte i v).status = s.status := rfl
@[simp] theorem State.setDinByte_turns (i : Nat) (v : Byte) : (s.setDinByte i v).turns = s.turns := rfl
@[simp] theorem State.setDinByte_reads (i : Nat) (v : Byte) : (s.setDinByte i v).reads = s.reads := rfl
@[simp] theorem State.setDinByte_draws (i : Nat) (v : Byte) : (s.setDinByte i v).draws = s.draws := rfl

@[simp] theorem State.setTurns_key (ts : List Turn) : (s.setTurns ts).key = s.key := rfl
@[simp] theorem State.setTurns_din (ts : List Turn) : (s.setTurns ts).din = s.din := rfl
@[simp] theorem State.setTurns_dout (ts : List Turn) : (s.setTurns ts).dout = s.dout := rfl
@[simp] theorem State.setTurns_ks (ts : List Turn) : (s.setTurns ts).ks = s.ks := rfl
@[simp] theorem State.setTurns_cmd (ts : List Turn) : (s.setTurns ts).cmd = s.cmd := rfl
@[simp] theorem State.setTurns_status (ts : List Turn) : (s.setTurns ts).status = s.status := rfl
@[simp] theorem State.setTurns_turns (ts : List Turn) : (s.setTurns ts).turns = ts := rfl
@[simp] theorem State.setTurns_reads (ts : List Turn) : (s.setTurns ts).reads = s.reads := rfl
@[simp] theorem State.setTurns_draws (ts : List Turn) : (s.setTurns ts).draws = s.draws := rfl

@[simp] theorem State.refuse_key (c : ErrCode) : (s.refuse c).key = s.key := rfl
@[simp] theorem State.refuse_din (c : ErrCode) : (s.refuse c).din = s.din := rfl
@[simp] theorem State.refuse_dout (c : ErrCode) : (s.refuse c).dout = s.dout := rfl
@[simp] theorem State.refuse_ks (c : ErrCode) : (s.refuse c).ks = s.ks := rfl
@[simp] theorem State.refuse_cmd (c : ErrCode) : (s.refuse c).cmd = s.cmd := rfl
@[simp] theorem State.refuse_status (c : ErrCode) : (s.refuse c).status = s.status.recordErr c := rfl
@[simp] theorem State.refuse_turns (c : ErrCode) : (s.refuse c).turns = s.turns := rfl
@[simp] theorem State.refuse_reads (c : ErrCode) : (s.refuse c).reads = s.reads := rfl
@[simp] theorem State.refuse_draws (c : ErrCode) : (s.refuse c).draws = s.draws := rfl

@[simp] theorem State.clearErr_key : (s.clearErr).key = s.key := rfl
@[simp] theorem State.clearErr_din : (s.clearErr).din = s.din := rfl
@[simp] theorem State.clearErr_dout : (s.clearErr).dout = s.dout := rfl
@[simp] theorem State.clearErr_ks : (s.clearErr).ks = s.ks := rfl
@[simp] theorem State.clearErr_cmd : (s.clearErr).cmd = s.cmd := rfl
@[simp] theorem State.clearErr_status : (s.clearErr).status = s.status.clearErr := rfl
@[simp] theorem State.clearErr_turns : (s.clearErr).turns = s.turns := rfl
@[simp] theorem State.clearErr_reads : (s.clearErr).reads = s.reads := rfl
@[simp] theorem State.clearErr_draws : (s.clearErr).draws = s.draws := rfl

@[simp] theorem State.accept_key (c : Byte) : (s.accept c).key = s.key := rfl
@[simp] theorem State.accept_din (c : Byte) : (s.accept c).din = s.din := rfl
@[simp] theorem State.accept_dout (c : Byte) : (s.accept c).dout = s.dout := rfl
@[simp] theorem State.accept_ks (c : Byte) : (s.accept c).ks = s.ks := rfl
@[simp] theorem State.accept_cmd (c : Byte) : (s.accept c).cmd = c := rfl
@[simp] theorem State.accept_status (c : Byte) : (s.accept c).status = s.status.accept := rfl
@[simp] theorem State.accept_turns (c : Byte) : (s.accept c).turns = s.turns := rfl
@[simp] theorem State.accept_reads (c : Byte) : (s.accept c).reads = s.reads := rfl
@[simp] theorem State.accept_draws (c : Byte) : (s.accept c).draws = s.draws := rfl

@[simp] theorem State.finish_key : (s.finish).key = s.key := rfl
@[simp] theorem State.finish_din : (s.finish).din = s.din := rfl
@[simp] theorem State.finish_dout : (s.finish).dout = s.dout := rfl
@[simp] theorem State.finish_ks : (s.finish).ks = s.ks := rfl
@[simp] theorem State.finish_cmd : (s.finish).cmd = s.cmd := rfl
@[simp] theorem State.finish_status : (s.finish).status = s.status.finish := rfl
@[simp] theorem State.finish_turns : (s.finish).turns = s.turns := rfl
@[simp] theorem State.finish_reads : (s.finish).reads = s.reads := rfl
@[simp] theorem State.finish_draws : (s.finish).draws = s.draws := rfl

@[simp] theorem State.invalidateBank_key (k : Slot) : (s.invalidateBank k).key = s.key := rfl
@[simp] theorem State.invalidateBank_din (k : Slot) : (s.invalidateBank k).din = s.din := rfl
@[simp] theorem State.invalidateBank_dout (k : Slot) : (s.invalidateBank k).dout = s.dout := rfl
@[simp] theorem State.invalidateBank_ks (k : Slot) : (s.invalidateBank k).ks = s.ks.set k (Config.unspecifiedBank s.draws k) := rfl
@[simp] theorem State.invalidateBank_cmd (k : Slot) : (s.invalidateBank k).cmd = s.cmd := rfl
@[simp] theorem State.invalidateBank_status (k : Slot) : (s.invalidateBank k).status = s.status.setKv k false := rfl
@[simp] theorem State.invalidateBank_turns (k : Slot) : (s.invalidateBank k).turns = s.turns := rfl
@[simp] theorem State.invalidateBank_reads (k : Slot) : (s.invalidateBank k).reads = s.reads := rfl
@[simp] theorem State.invalidateBank_draws (k : Slot) : (s.invalidateBank k).draws = s.draws := rfl

@[simp] theorem State.generateBank_key (k : Slot) : (s.generateBank k).key = s.key := rfl
@[simp] theorem State.generateBank_din (k : Slot) : (s.generateBank k).din = s.din := rfl
@[simp] theorem State.generateBank_dout (k : Slot) : (s.generateBank k).dout = s.dout := rfl
@[simp] theorem State.generateBank_ks (k : Slot) : (s.generateBank k).ks = s.ks.set k (keysched (s.keyBlock k)) := rfl
@[simp] theorem State.generateBank_cmd (k : Slot) : (s.generateBank k).cmd = s.cmd := rfl
@[simp] theorem State.generateBank_status (k : Slot) : (s.generateBank k).status = s.status.setKv k true := rfl
@[simp] theorem State.generateBank_turns (k : Slot) : (s.generateBank k).turns = s.turns := rfl
@[simp] theorem State.generateBank_reads (k : Slot) : (s.generateBank k).reads = s.reads := rfl
@[simp] theorem State.generateBank_draws (k : Slot) : (s.generateBank k).draws = s.draws := rfl

@[simp] theorem State.resetCore_key : (s.resetCore).key = Vector.replicate 24 0#8 := rfl
@[simp] theorem State.resetCore_din : (s.resetCore).din = Vector.replicate 8 0#8 := rfl
@[simp] theorem State.resetCore_dout : (s.resetCore).dout = Vector.replicate 8 0#8 := rfl
@[simp] theorem State.resetCore_ks : (s.resetCore).ks = ⟨Config.unspecifiedBank s.draws .k1, Config.unspecifiedBank s.draws .k2, Config.unspecifiedBank s.draws .k3⟩ := rfl
@[simp] theorem State.resetCore_cmd : (s.resetCore).cmd = 0x00#8 := rfl
@[simp] theorem State.resetCore_status : (s.resetCore).status = Status.atReset := rfl
@[simp] theorem State.resetCore_turns : (s.resetCore).turns = s.turns := rfl
@[simp] theorem State.resetCore_reads : (s.resetCore).reads = s.reads := rfl
@[simp] theorem State.resetCore_draws : (s.resetCore).draws = s.draws + 1 := rfl

@[simp] theorem State.copyOut_key : (s.copyOut).key = s.key := rfl
@[simp] theorem State.copyOut_din : (s.copyOut).din = s.dout := rfl
@[simp] theorem State.copyOut_dout : (s.copyOut).dout = s.dout := rfl
@[simp] theorem State.copyOut_ks : (s.copyOut).ks = s.ks := rfl
@[simp] theorem State.copyOut_cmd : (s.copyOut).cmd = s.cmd := rfl
@[simp] theorem State.copyOut_status : (s.copyOut).status = s.status := rfl
@[simp] theorem State.copyOut_turns : (s.copyOut).turns = s.turns := rfl
@[simp] theorem State.copyOut_reads : (s.copyOut).reads = s.reads := rfl
@[simp] theorem State.copyOut_draws : (s.copyOut).draws = s.draws := rfl

@[simp] theorem hostRead_key (a : Offset) : (hostRead a s).key = s.key := rfl
@[simp] theorem hostRead_din (a : Offset) : (hostRead a s).din = s.din := rfl
@[simp] theorem hostRead_dout (a : Offset) : (hostRead a s).dout = s.dout := rfl
@[simp] theorem hostRead_ks (a : Offset) : (hostRead a s).ks = s.ks := rfl
@[simp] theorem hostRead_cmd (a : Offset) : (hostRead a s).cmd = s.cmd := rfl
@[simp] theorem hostRead_status (a : Offset) : (hostRead a s).status = s.status := rfl
@[simp] theorem hostRead_turns (a : Offset) : (hostRead a s).turns = s.turns := rfl
@[simp] theorem hostRead_reads (a : Offset) : (hostRead a s).reads = memRead s a :: s.reads := rfl
@[simp] theorem hostRead_draws (a : Offset) : (hostRead a s).draws = s.draws + 1 := rfl

theorem State.ext_fields {s t : State} (key : t.key = s.key) (din : t.din = s.din) (dout : t.dout = s.dout)
    (ks : t.ks = s.ks) (cmd : t.cmd = s.cmd) (status : t.status = s.status) (turns : t.turns = s.turns)
    (reads : t.reads = s.reads) (draws : t.draws = s.draws) : t = s := by
  cases s
  cases t
  simp_all

/-- A refusal, as one record update (spec/60_exceptions.md R203). -/
theorem State.refuse_eq (c : ErrCode) : s.refuse c = { s with status := { s.status with
    err := if s.status.err = .none then c else s.status.err } } := by
  unfold State.refuse Status.recordErr
  split
  · rfl
  · rfl

end Sys2Proof.Machine
end

