-- ==== Sys2Proof/Laws/Block.lean ====
section
/-! SUPPORT. Packing and unpacking of 8-byte buffers (spec/00_scope.md R11), and the Permutation Engine's one law
(spec/40_permutation.md R100). -/

namespace Sys2Proof

/-- Bit `8i + j` of `be(B)`, in DES numbering less one, is bit `j` of byte `i`, from the most significant one. -/
theorem getMsbD_blockOfBytes (b : Vector Byte 8) (i j : Nat) (hi : i < 8) (hj : j < 8) :
    (blockOfBytes b).getMsbD (8 * i + j) = b[i].getMsbD j := by
  unfold blockOfBytes
  interval_cases i <;> simp <;> grind

theorem byteOfBlock_blockOfBytes (b : Vector Byte 8) (i : Nat) (hi : i < 8) :
    byteOfBlock (blockOfBytes b) i = b[i] := by
  unfold byteOfBlock blockOfBytes
  interval_cases i <;> apply BitVec.eq_of_getLsbD_eq <;> intro j hj <;> simp <;> grind

/-- Packing undoes unpacking. -/
@[simp] theorem blockOfBytes_bytesOfBlock (v : Block) : blockOfBytes (bytesOfBlock v) = v := by
  apply BitVec.eq_of_getLsbD_eq
  intro j hj
  simp [blockOfBytes, bytesOfBlock, byteOfBlock]
  grind

/-- Unpacking undoes packing. -/
@[simp] theorem bytesOfBlock_blockOfBytes (b : Vector Byte 8) : bytesOfBlock (blockOfBytes b) = b := by
  ext i hi
  simp [bytesOfBlock, byteOfBlock_blockOfBytes b i hi]

end Sys2Proof

namespace Sys2Proof.Machine

/-- R100: output bit `j+1` is the input bit that the table's entry `j` names. -/
theorem getMsbD_permute {nIn nOut : Nat} (T : Table nIn nOut) (V : BitVec nIn) (j : Nat) (hj : j < T.entries.length) :
    (permute T V).getMsbD j = V.getMsbD (T.entries[j] - 1) := by
  simp [permute, hj]

/-- Two permutations agree when they select the same bits. -/
theorem permute_ext {nIn nOut : Nat} {W W' : BitVec nOut} (T : Table nIn nOut)
    (h : ∀ j, j < T.entries.length → W.getMsbD j = W'.getMsbD j) : W = W' := by
  apply BitVec.eq_of_getMsbD_eq
  intro j hj
  exact h j (by rw [T.length_entries]; exact hj)

end Sys2Proof.Machine
end

