-- ==== Sys2Proof/Laws/Feistel.lean ====
section
/-! SUPPORT. The algebra of one round (spec/41_des_block.md R127) and of the split of a block (R121). -/

namespace Sys2Proof.Machine

@[simp] theorem splitBlock_joinHalves (h : HalfBlock × HalfBlock) : splitBlock (joinHalves h) = h := by
  obtain ⟨L, R⟩ := h
  simp only [splitBlock, joinHalves, Prod.mk.injEq]
  constructor <;> apply BitVec.eq_of_getLsbD_eq <;> intro j hj <;> simp <;> grind

@[simp] theorem joinHalves_splitBlock (V : Block) : joinHalves (splitBlock V) = V := by
  apply BitVec.eq_of_getLsbD_eq
  intro j hj
  simp [splitBlock, joinHalves]
  grind

theorem feistelRound_swap (h : HalfBlock × HalfBlock) (K : RoundKey) :
    feistelRound h K true = (h.2, h.1 ^^^ feistelF h.2 K) := rfl

theorem feistelRound_noSwap (h : HalfBlock × HalfBlock) (K : RoundKey) :
    feistelRound h K false = (h.1 ^^^ feistelF h.2 K, h.2) := rfl

theorem feistelRounds_nil (S : KeySchedule) (last : Fin 16) (h : HalfBlock × HalfBlock) :
    feistelRounds S last [] h = h := rfl

theorem feistelRounds_cons (S : KeySchedule) (last i : Fin 16) (is : List (Fin 16)) (h : HalfBlock × HalfBlock) :
    feistelRounds S last (i :: is) h = feistelRounds S last is (feistelRound h S[i] (i != last)) := rfl

theorem feistelRounds_append (S : KeySchedule) (last : Fin 16) (is js : List (Fin 16)) (h : HalfBlock × HalfBlock) :
    feistelRounds S last (is ++ js) h = feistelRounds S last js (feistelRounds S last is h) :=
  List.foldl_append

/-- The pair with its halves exchanged. -/
def swapHalves (h : HalfBlock × HalfBlock) : HalfBlock × HalfBlock := (h.2, h.1)

@[simp] theorem swapHalves_swapHalves (h : HalfBlock × HalfBlock) : swapHalves (swapHalves h) = h := rfl

/-- A swapping round with a key undoes, up to the exchange of the halves, a swapping round with the same key: `x ^ F ^ F`
is `x`. -/
theorem feistelRound_undo (h : HalfBlock × HalfBlock) (K : RoundKey) :
    feistelRound (swapHalves (feistelRound h K true)) K true = swapHalves h := by
  simp [feistelRound, swapHalves]

/-- The round without a swap is its own inverse. -/
theorem feistelRound_noSwap_undo (h : HalfBlock × HalfBlock) (K : RoundKey) :
    feistelRound (feistelRound h K false) K false = h := by
  simp [feistelRound]

/-- The round without a swap is the swapping round with the halves then exchanged. -/
theorem feistelRound_noSwap_eq (h : HalfBlock × HalfBlock) (K : RoundKey) :
    feistelRound h K false = swapHalves (feistelRound h K true) := rfl

/-- The rounds of the listed indices, every one with the swap. -/
def swapRounds (S : KeySchedule) (is : List (Fin 16)) (h : HalfBlock × HalfBlock) : HalfBlock × HalfBlock :=
  is.foldl (fun h i => feistelRound h S[i] true) h

theorem swapRounds_nil (S : KeySchedule) (h : HalfBlock × HalfBlock) : swapRounds S [] h = h := rfl

theorem swapRounds_cons (S : KeySchedule) (i : Fin 16) (is : List (Fin 16)) (h : HalfBlock × HalfBlock) :
    swapRounds S (i :: is) h = swapRounds S is (feistelRound h S[i] true) := rfl

theorem swapRounds_append (S : KeySchedule) (is js : List (Fin 16)) (h : HalfBlock × HalfBlock) :
    swapRounds S (is ++ js) h = swapRounds S js (swapRounds S is h) := List.foldl_append

/-- Rounds that do not hold the no-swap index all swap. -/
theorem feistelRounds_of_ne (S : KeySchedule) (last : Fin 16) (is : List (Fin 16)) (h : HalfBlock × HalfBlock)
    (hn : ∀ i ∈ is, i ≠ last) : feistelRounds S last is h = swapRounds S is h := by
  induction is generalizing h with
  | nil => rfl
  | cons i is ih =>
    rw [feistelRounds_cons, swapRounds_cons, bne_iff_ne.mpr (hn i List.mem_cons_self)]
    exact ih _ fun j hj => hn j (List.mem_cons_of_mem i hj)

/-- The rounds in reverse order undo the rounds, up to the exchange of the halves. -/
theorem swapRounds_undo (S : KeySchedule) (is : List (Fin 16)) (h : HalfBlock × HalfBlock) :
    swapRounds S is.reverse (swapHalves (swapRounds S is h)) = swapHalves h := by
  induction is generalizing h with
  | nil => rfl
  | cons i is ih =>
    rw [List.reverse_cons, swapRounds_append, swapRounds_cons S i is, ih, swapRounds_cons, swapRounds_nil,
      feistelRound_undo]

/-- Rounds of which the last one does not swap: the same rounds, all with the swap, and the halves then exchanged. -/
theorem feistelRounds_last (S : KeySchedule) (last : Fin 16) (is : List (Fin 16)) (h : HalfBlock × HalfBlock)
    (hn : ∀ i ∈ is, i ≠ last) :
    feistelRounds S last (is ++ [last]) h = swapHalves (swapRounds S (is ++ [last]) h) := by
  rw [feistelRounds_append, feistelRounds_of_ne S last is h hn, feistelRounds_cons, feistelRounds_nil,
    swapRounds_append, swapRounds_cons, swapRounds_nil, bne_self_eq_false, feistelRound_noSwap_eq]

theorem feistelRounds_encrypt (S : KeySchedule) (h : HalfBlock × HalfBlock) :
    feistelRounds S 15 encryptOrder h = swapHalves (swapRounds S encryptOrder h) :=
  feistelRounds_last S 15 [0, 1, 2, 3, 4, 5, 6, 7, 8, 9, 10, 11, 12, 13, 14] h (by decide)

theorem feistelRounds_decrypt (S : KeySchedule) (h : HalfBlock × HalfBlock) :
    feistelRounds S 0 decryptOrder h = swapHalves (swapRounds S decryptOrder h) :=
  feistelRounds_last S 0 [15, 14, 13, 12, 11, 10, 9, 8, 7, 6, 5, 4, 3, 2, 1] h (by decide)

theorem reverse_encryptOrder : encryptOrder.reverse = decryptOrder := by decide

theorem reverse_decryptOrder : decryptOrder.reverse = encryptOrder := by decide

end Sys2Proof.Machine
end

