-- ==== Sys2Proof/Laws/KeySchedule.lean ====
section
/-! SUPPORT. The algebra of the 28-bit rotation (spec/00_scope.md R13), and the round keys of a list of rotations as
functions of the halves at its start (spec/42_key_schedule.md R153). -/

namespace Sys2Proof.Machine

theorem getLsbD_rotateLeft_half (x : KeyHalf) (n j : Nat) (hj : j < 28) :
    (x.rotateLeft n).getLsbD j = x.getLsbD ((j + 28 - n % 28) % 28) := by
  rw [BitVec.getLsbD_rotateLeft]
  have h := Nat.mod_lt n (show 0 < 28 by decide)
  generalize n % 28 = m at h
  by_cases hm : j < m
  · simp only [hm, decide_true, cond_true]
    congr 1
    omega
  · simp only [hm, decide_false, cond_false, hj, decide_true, Bool.true_and]
    congr 1
    omega

/-- `rol28` is the rotation within 28 bits. -/
theorem rol28_eq_rotateLeft (x : KeyHalf) (n : Nat) (h : n ≤ 28) : rol28 x n = x.rotateLeft n := by
  apply BitVec.eq_of_getLsbD_eq
  intro j hj
  rw [getLsbD_rotateLeft_half x n j hj, rol28, BitVec.getLsbD_or, BitVec.getLsbD_shiftLeft,
    BitVec.getLsbD_ushiftRight]
  rcases Nat.lt_or_ge n 28 with h | h
  · rw [Nat.mod_eq_of_lt h]
    by_cases hjn : j < n
    · have : (j + 28 - n) % 28 = 28 - n + j := by omega
      simp [hjn, this]
    · have : (j + 28 - n) % 28 = j - n := by omega
      simp [hj, hjn, this, BitVec.getLsbD_of_ge x (28 - n + j) (by omega)]
  · obtain rfl : n = 28 := by omega
    have : (j + 28 - 28 % 28) % 28 = j := by omega
    simp [hj, Nat.mod_eq_of_lt]

/-- Rotations accumulate. -/
theorem rotateLeft_rotateLeft_half (x : KeyHalf) (a b : Nat) : (x.rotateLeft a).rotateLeft b = x.rotateLeft (a + b) := by
  apply BitVec.eq_of_getLsbD_eq
  intro j hj
  rw [getLsbD_rotateLeft_half _ b j hj, getLsbD_rotateLeft_half _ a _ (Nat.mod_lt _ (by decide)),
    getLsbD_rotateLeft_half _ _ j hj]
  congr 1
  omega

/-- A rotation by 28 is none. -/
theorem rotateLeft_half_28 (x : KeyHalf) : x.rotateLeft 28 = x := by
  apply BitVec.eq_of_getLsbD_eq
  intro j hj
  rw [getLsbD_rotateLeft_half _ _ j hj]
  congr 1
  omega

/-- A half of equal bits is every rotation of itself. -/
theorem rotateLeft_half_zero (n : Nat) : (0#28).rotateLeft n = 0#28 := by
  apply BitVec.eq_of_getLsbD_eq
  intro j hj
  rw [getLsbD_rotateLeft_half _ _ j hj]
  simp

theorem rotateLeft_half_allOnes (n : Nat) : (BitVec.allOnes 28).rotateLeft n = BitVec.allOnes 28 := by
  apply BitVec.eq_of_getLsbD_eq
  intro j hj
  rw [getLsbD_rotateLeft_half _ _ j hj, BitVec.getLsbD_allOnes, BitVec.getLsbD_allOnes,
    decide_eq_true hj, decide_eq_true (Nat.mod_lt _ (by decide))]

theorem leftHalf_append_rightHalf (CD : KeyHalves) : leftHalf CD ++ rightHalf CD = CD := by
  apply BitVec.eq_of_getLsbD_eq
  intro j hj
  simp [leftHalf, rightHalf]
  grind

/-- Round `r` of a list of rotations sees the first halves rotated by the sum of the rotations so far. -/
theorem getElem?_roundKeys (ns : List Nat) (C D : KeyHalf) (hn : ∀ n ∈ ns, n ≤ 28) (r : Nat) (hr : r < ns.length) :
    (roundKeys ns C D)[r]? = some (permute tablePC2
      (C.rotateLeft (ns.take (r + 1)).sum ++ D.rotateLeft (ns.take (r + 1)).sum)) := by
  induction ns generalizing C D r with
  | nil => exact absurd hr (Nat.not_lt_zero r)
  | cons n ns ih =>
    have h1 := hn n List.mem_cons_self
    rw [roundKeys, rol28_eq_rotateLeft C n h1, rol28_eq_rotateLeft D n h1]
    cases r with
    | zero => simp
    | succ r =>
      rw [List.getElem?_cons_succ, ih _ _ (fun m hm => hn m (List.mem_cons_of_mem n hm)) r (by simpa using hr)]
      simp only [rotateLeft_rotateLeft_half, List.take_succ_cons, List.sum_cons]

/-- The round keys of `keysched` are those of the list `rotations`. -/
theorem getElem?_keysched (K : Block) (r : Nat) :
    (keysched K)[r]? =
      (roundKeys rotations (leftHalf (permute tablePC1 K)) (rightHalf (permute tablePC1 K)))[r]? := by
  rw [keysched, scheduleOfHalves, Vector.getElem?_mk, List.getElem?_toArray]

/-- Inputs that agree in the bits that a table selects have the same permutation. -/
theorem permute_congr {nIn nOut : Nat} (T : Table nIn nOut) (V W : BitVec nIn)
    (h : ∀ t ∈ T.entries, V.getMsbD (t - 1) = W.getMsbD (t - 1)) : permute T V = permute T W := by
  apply permute_ext T
  intro j hj
  rw [getMsbD_permute T V j hj, getMsbD_permute T W j hj, h _ (List.getElem_mem hj)]

end Sys2Proof.Machine
end

