-- ==== Sys2Proof/Laws/Ops.lean ====
section
/-! SUPPORT. What the shared operations can do, each said once: generating and invalidating banks, refusing, reset, the
acceptance and the completion of a command. -/

namespace Sys2Proof.Machine

variable (s : State)

/-! ### Banks and valid flags -/

@[simp] theorem State.valid_setKv (j k : Slot) (b : Bool) : (s.setKv k b).valid j = if j = k then b else s.valid j := by
  simp [State.valid, PerSlot.get_set]

@[simp] theorem State.bank_setBank (j k : Slot) (S : KeySchedule) :
    (s.setBank k S).bank j = if j = k then S else s.bank j := by
  simp [State.bank, PerSlot.get_set]

theorem State.valid_congr {s t : State} (h : t.status.kv = s.status.kv) (k : Slot) : t.valid k = s.valid k := by
  simp [State.valid, h]

theorem State.bank_congr {s t : State} (h : t.ks = s.ks) (k : Slot) : t.bank k = s.bank k := by simp [State.bank, h]

theorem State.keyBlock_congr {s t : State} (h : t.key = s.key) (k : Slot) : t.keyBlock k = s.keyBlock k := by
  simp [State.keyBlock, State.keyBytes, h]

@[simp] theorem State.valid_generateBank (j k : Slot) :
    (s.generateBank k).valid j = if j = k then true else s.valid j := by
  simp [State.valid, PerSlot.get_set]

@[simp] theorem State.bank_generateBank (j k : Slot) :
    (s.generateBank k).bank j = if j = k then keysched (s.keyBlock k) else s.bank j := by
  simp [State.bank, PerSlot.get_set]

@[simp] theorem State.keyBlock_generateBank (j k : Slot) : (s.generateBank k).keyBlock j = s.keyBlock j :=
  State.keyBlock_congr rfl j

@[simp] theorem State.valid_invalidateBank (j k : Slot) :
    (s.invalidateBank k).valid j = if j = k then false else s.valid j := by
  simp [State.valid, PerSlot.get_set]

@[simp] theorem State.bank_invalidateBank (j k : Slot) :
    (s.invalidateBank k).bank j = if j = k then Config.unspecifiedBank s.draws k else s.bank j := by
  simp [State.bank, PerSlot.get_set]

/-- Generating the banks of the list changes `KS` and `KV1..KV3` of these banks, and nothing else. -/
structure Generated (gen : List Slot) (t : State) : Prop where
  key : t.key = s.key
  din : t.din = s.din
  dout : t.dout = s.dout
  cmd : t.cmd = s.cmd
  busy : t.status.busy = s.status.busy
  done : t.status.done = s.status.done
  err : t.status.err = s.status.err
  turns : t.turns = s.turns
  reads : t.reads = s.reads
  draws : t.draws = s.draws
  bank : ∀ k, t.bank k = if k ∈ gen then keysched (s.keyBlock k) else s.bank k
  valid : ∀ k, t.valid k = if k ∈ gen then true else s.valid k

/-- The banks of the list generated, one after another. -/
def State.generate (gen : List Slot) : State := gen.foldl State.generateBank s

theorem State.generate_spec (gen : List Slot) : Generated s gen (s.generate gen) := by
  induction gen generalizing s with
  | nil => constructor <;> first | rfl | (intro k; simp [State.generate])
  | cons j gen ih =>
    have h := ih (s.generateBank j)
    refine ⟨h.key, h.din, h.dout, h.cmd, h.busy, h.done, h.err, h.turns, h.reads, h.draws, fun k => ?_, fun k => ?_⟩
    · show ((s.generateBank j).generate gen).bank k = _
      rw [h.bank k]
      by_cases hk : k ∈ gen <;> by_cases hj : k = j <;> simp [hk, hj]
    · show ((s.generateBank j).generate gen).valid k = _
      rw [h.valid k]
      by_cases hk : k ∈ gen <;> by_cases hj : k = j <;> simp [hk, hj]

/-- Invalidating the banks of the list clears their flags and leaves their content unspecified; nothing else changes, and
the next free value is a fresh one. -/
structure Invalidated (gen : List Slot) (t : State) : Prop where
  key : t.key = s.key
  din : t.din = s.din
  dout : t.dout = s.dout
  cmd : t.cmd = s.cmd
  busy : t.status.busy = s.status.busy
  done : t.status.done = s.status.done
  err : t.status.err = s.status.err
  turns : t.turns = s.turns
  reads : t.reads = s.reads
  draws : t.draws = s.draws + 1
  bank : ∀ k, t.bank k = if k ∈ gen then Config.unspecifiedBank s.draws k else s.bank k
  valid : ∀ k, t.valid k = if k ∈ gen then false else s.valid k

theorem State.invalidate_nil : s.invalidate [] = { s with draws := s.draws + 1 } := rfl

theorem State.invalidate_cons (j : Slot) (gen : List Slot) :
    s.invalidate (j :: gen) = (s.invalidateBank j).invalidate gen := rfl

theorem State.invalidate_spec (gen : List Slot) : Invalidated s gen (s.invalidate gen) := by
  induction gen generalizing s with
  | nil =>
    rw [State.invalidate_nil]
    constructor <;> first | rfl | (intro k; simp [State.bank, State.valid])
  | cons j gen ih =>
    have h := ih (s.invalidateBank j)
    rw [State.invalidate_cons]
    refine ⟨h.key, h.din, h.dout, h.cmd, h.busy, h.done, h.err, h.turns, h.reads, h.draws, fun k => ?_, fun k => ?_⟩
    · rw [h.bank k]
      by_cases hk : k ∈ gen <;> by_cases hj : k = j <;> simp [hk, hj]
    · rw [h.valid k]
      by_cases hk : k ∈ gen <;> by_cases hj : k = j <;> simp [hk, hj]

/-! ### Issuing a command -/

/-- The state in which the operation command `i` has been accepted (spec/70_reset_and_hazards.md R234). -/
def State.accepted (i : Instr) : State :=
  (if i.generates = [] then s else s.invalidate i.generates).accept (encode i)

/-- What issuing a command does, in the order of the tests of spec/60_exceptions.md R208. -/
inductive Issued (i : Instr) : State → Prop where
  /-- `SRST` is never refused -/
  | softReset : i = .srst → Issued i s.resetCore
  /-- any other command is refused while `BUSY = 1` -/
  | busy : i ≠ .srst → s.status.busy = true → Issued i (s.refuse .busy)
  /-- `CLRE` -/
  | clearError : i = .clre → s.status.busy = false → Issued i s.clearErr
  /-- a cipher command whose bank is not valid is refused -/
  | noKey (k : Slot) : i.isOperation = true → s.status.busy = false → k ∈ i.needs → s.valid k = false →
      Issued i (s.refuse .noKey)
  /-- the command is accepted -/
  | accepted : i.isOperation = true → s.status.busy = false → (∀ k ∈ i.needs, s.valid k = true) →
      Issued i (s.accepted i)

theorem issueKeyCommand_busy {s : State} {c : Byte} {gen : List Slot} (hb : s.status.busy = true) :
    issueKeyCommand c gen s = .next (s.refuse .busy) := by simp [issueKeyCommand, hb]

theorem issueKeyCommand_idle {s : State} {c : Byte} {gen : List Slot} (hb : s.status.busy = false) :
    issueKeyCommand c gen s = .next ((s.invalidate gen).accept c) := by simp [issueKeyCommand, hb]

theorem issueCipherCommand_busy {s : State} {c : Byte} {need : List Slot} (hb : s.status.busy = true) :
    issueCipherCommand c need s = .next (s.refuse .busy) := by simp [issueCipherCommand, hb]

theorem issueCipherCommand_valid {s : State} {c : Byte} {need : List Slot} (hb : s.status.busy = false)
    (hv : ∀ k ∈ need, s.valid k = true) : issueCipherCommand c need s = .next (s.accept c) := by
  simp [issueCipherCommand, hb, List.all_eq_true.mpr hv]

theorem issueCipherCommand_noKey {s : State} {c : Byte} {need : List Slot} {k : Slot} (hb : s.status.busy = false)
    (hk : k ∈ need) (hv : s.valid k = false) : issueCipherCommand c need s = .next (s.refuse .noKey) := by
  have : need.all s.valid = false := by
    rw [List.all_eq_false]
    exact ⟨k, hk, by simp [hv]⟩
  simp [issueCipherCommand, hb, this]

/-- The meaning of every operation command is one of the two shared issuing operations. -/
theorem exec_operation {i : Instr} (hi : i.isOperation = true) :
    exec i s = if i.generates = [] then issueCipherCommand (encode i) i.needs s
      else issueKeyCommand (encode i) i.generates s := by
  cases i <;> first | rfl | exact absurd hi (by decide)

theorem Instr.needs_of_generates {i : Instr} (h : i.generates ≠ []) : i.needs = [] := by
  cases i <;> first | rfl | exact absurd rfl h

theorem Instr.eq_of_not_operation {i : Instr} (h : i.isOperation = false) : i = .clre ∨ i = .srst := by
  cases i <;> first | exact .inl rfl | exact .inr rfl | exact absurd h (by decide)

/-- An operation command is refused while `BUSY = 1`. -/
theorem exec_busy {s : State} {i : Instr} (hi : i ≠ .srst) (hb : s.status.busy = true) :
    exec i s = .next (s.refuse .busy) := by
  by_cases ho : i.isOperation = true
  · rw [exec_operation s ho]
    split
    · exact issueCipherCommand_busy hb
    · exact issueKeyCommand_busy hb
  · rcases Instr.eq_of_not_operation (Bool.not_eq_true _ ▸ ho) with rfl | rfl
    · show (if s.status.busy then _ else _) = _
      rw [if_pos hb]
    · exact absurd rfl hi

/-- An operation command whose banks are valid is accepted when `BUSY = 0`. -/
theorem exec_accepted {s : State} {i : Instr} (ho : i.isOperation = true) (hb : s.status.busy = false)
    (hv : ∀ k ∈ i.needs, s.valid k = true) : exec i s = .next (s.accepted i) := by
  rw [exec_operation s ho, State.accepted]
  by_cases hg : i.generates = []
  · rw [if_pos hg, if_pos hg, issueCipherCommand_valid hb hv]
  · rw [if_neg hg, if_neg hg, issueKeyCommand_idle hb]

/-- A cipher command with a bank that is not valid is refused when `BUSY = 0`. -/
theorem exec_noKey {s : State} {i : Instr} {k : Slot} (ho : i.isOperation = true) (hb : s.status.busy = false)
    (hk : k ∈ i.needs) (hv : s.valid k = false) : exec i s = .next (s.refuse .noKey) := by
  rw [exec_operation s ho]
  by_cases hg : i.generates = []
  · rw [if_pos hg, issueCipherCommand_noKey hb hk hv]
  · rw [Instr.needs_of_generates hg] at hk
    exact absurd hk List.not_mem_nil

/-- Everything issuing a command can do. -/
theorem exec_spec (i : Instr) : ∃ t, exec i s = .next t ∧ Issued s i t := by
  by_cases ho : i.isOperation = true
  · have hs : i ≠ .srst := by rintro rfl; exact absurd ho (by decide)
    cases hb : s.status.busy with
    | true => exact ⟨_, exec_busy hs hb, .busy hs hb⟩
    | false =>
      by_cases hv : ∀ k ∈ i.needs, s.valid k = true
      · exact ⟨_, exec_accepted ho hb hv, .accepted ho hb hv⟩
      · push Not at hv
        obtain ⟨k, hk, hkv⟩ := hv
        have hkv : s.valid k = false := by simpa using hkv
        exact ⟨_, exec_noKey ho hb hk hkv, .noKey k ho hb hk hkv⟩
  · rcases Instr.eq_of_not_operation (Bool.not_eq_true _ ▸ ho) with rfl | rfl
    · cases hb : s.status.busy with
      | true => exact ⟨_, exec_busy (by decide) hb, .busy (by decide) hb⟩
      | false =>
        refine ⟨s.clearErr, ?_, .clearError rfl hb⟩
        show (if s.status.busy then _ else _) = _
        rw [hb]
        rfl
    · exact ⟨_, rfl, .softReset rfl⟩

/-- Acceptance changes `CMD`, `BUSY`, `DONE`, and the banks that the command generates; nothing else of the core
(spec/70_reset_and_hazards.md R234, R235). -/
structure AcceptedFrame (i : Instr) (t : State) : Prop where
  key : t.key = s.key
  din : t.din = s.din
  dout : t.dout = s.dout
  cmd : t.cmd = encode i
  busy : t.status.busy = true
  done : t.status.done = false
  err : t.status.err = s.status.err
  turns : t.turns = s.turns
  reads : t.reads = s.reads
  bank : ∀ k, k ∉ i.generates → t.bank k = s.bank k
  valid : ∀ k, t.valid k = if k ∈ i.generates then false else s.valid k

theorem State.accepted_spec (i : Instr) : AcceptedFrame s i (s.accepted i) := by
  unfold State.accepted
  split
  case isTrue h => constructor <;> first | rfl | (intro k; simp [h, State.bank, State.valid])
  case isFalse h =>
    have hs := s.invalidate_spec i.generates
    exact ⟨hs.key, hs.din, hs.dout, rfl, rfl, rfl, hs.err, hs.turns, hs.reads,
      fun k hk => (hs.bank k).trans (if_neg hk), fun k => hs.valid k⟩

/-! ### Completion -/

end Sys2Proof.Machine

namespace Sys2Proof

open Machine

/-- The block that a cipher command leaves in `DOUT` (spec/70_reset_and_hazards.md R236). -/
def Instr.cipher : Instr → Block → TripleKeySet → Option Block
  | .dese1, B, S => some (desEnc B S.k1)
  | .dese2, B, S => some (desEnc B S.k2)
  | .dese3, B, S => some (desEnc B S.k3)
  | .desd1, B, S => some (desDec B S.k1)
  | .desd2, B, S => some (desDec B S.k2)
  | .desd3, B, S => some (desDec B S.k3)
  | .tdese, B, S => some (tdesEnc B S)
  | .tdesd, B, S => some (tdesDec B S)
  | .clre, _, _ => none
  | .srst, _, _ => none
  | .kgena, _, _ => none
  | .kgen1, _, _ => none
  | .kgen2, _, _ => none
  | .kgen3, _, _ => none

end Sys2Proof

namespace Sys2Proof.Machine

variable (s : State)

/-- `DOUT` gets the block, if there is one. -/
def State.putOut (v : Option Block) : State :=
  match v with
  | some v => s.setDout v
  | none => s

/-- The state after the completion of the operation command `i`. -/
def State.completed (i : Instr) : State :=
  ((s.generate i.generates).putOut (i.cipher s.dinBlock s.ks)).finish

theorem completeOf_spec {i : Instr} (h : i.isOperation = true) : completeOf i s = .next (s.completed i) := by
  cases i <;> first | exact absurd h (by decide) | rfl

/-- Completion changes `DOUT` or the generated banks, `BUSY` and `DONE`; nothing else. -/
structure CompletedFrame (i : Instr) (t : State) : Prop where
  key : t.key = s.key
  din : t.din = s.din
  dout : t.dout = ((i.cipher s.dinBlock s.ks).map bytesOfBlock).getD s.dout
  cmd : t.cmd = s.cmd
  busy : t.status.busy = false
  done : t.status.done = true
  err : t.status.err = s.status.err
  turns : t.turns = s.turns
  reads : t.reads = s.reads
  draws : t.draws = s.draws
  bank : ∀ k, t.bank k = if k ∈ i.generates then keysched (s.keyBlock k) else s.bank k
  valid : ∀ k, t.valid k = if k ∈ i.generates then true else s.valid k

theorem State.completed_spec (i : Instr) : CompletedFrame s i (s.completed i) := by
  have hs := s.generate_spec i.generates
  unfold State.completed State.putOut
  cases hc : i.cipher s.dinBlock s.ks with
  | none =>
    exact ⟨hs.key, hs.din, by rw [hc]; exact hs.dout, hs.cmd, rfl, rfl, hs.err, hs.turns, hs.reads, hs.draws, hs.bank, hs.valid⟩
  | some v =>
    exact ⟨hs.key, hs.din, by rw [hc]; rfl, hs.cmd, rfl, rfl, hs.err, hs.turns, hs.reads, hs.draws, hs.bank, hs.valid⟩

theorem complete_of_decode {s : State} {i : Instr} (hd : decode s.cmd = .command i) (h : i.isOperation = true) :
    complete s = .next (s.completed i) := by
  simp only [complete, hd, completeOf_spec s h]

/-- The byte that decodes to a command is the command's own. -/
theorem encode_of_decode (c : Byte) (i : Instr) (h : decode c = .command i) : encode i = c := by
  have all : ∀ c : Byte, (decode c).instr?.all (fun i => encode i == c) = true := by decide +kernel
  simpa [h, Decoded.instr?] using all c

end Sys2Proof.Machine
end

