-- ==== Sys2Proof/Laws/PerInstr.lean ====
section
/-! SUPPORT. What holds of every instruction as syntax, one lemma for each constructor. -/

namespace Sys2Proof.Laws.WellFormedEncoding

/-- The fields of the instruction's byte are well-formed (spec/30_encoding.md R75, R76). -/
def Statement (i : Instr) : Prop := (fieldsOf (encode i)).wf = true

theorem clre : Statement .clre := rfl
theorem srst : Statement .srst := rfl
theorem kgena : Statement .kgena := rfl
theorem kgen1 : Statement .kgen1 := rfl
theorem kgen2 : Statement .kgen2 := rfl
theorem kgen3 : Statement .kgen3 := rfl
theorem dese1 : Statement .dese1 := rfl
theorem dese2 : Statement .dese2 := rfl
theorem dese3 : Statement .dese3 := rfl
theorem desd1 : Statement .desd1 := rfl
theorem desd2 : Statement .desd2 := rfl
theorem desd3 : Statement .desd3 := rfl
theorem tdese : Statement .tdese := rfl
theorem tdesd : Statement .tdesd := rfl

end Sys2Proof.Laws.WellFormedEncoding
end

