-- ==== Sys2Proof/Laws/Step.lean ====
section
/-! SUPPORT. Everything a turn can do, said once: invariants and frames are case splits over `Effect`. -/

namespace Sys2Proof.Machine

/-- What the turn `t`, taken in the state `s`, can lead to. -/
inductive Effect (s : State) : Turn → State → Prop where
  /-- a host read (spec/20_memory.md R52) -/
  | read (a : Offset) : Effect s (.host (.read a)) (hostRead a s)
  /-- a write that is refused while `BUSY = 1` (spec/60_exceptions.md R207) -/
  | refusedBusy (a : Offset) (v : Byte) : s.status.busy = true →
      (a.toNat ≤ 0x1F ∨ a = Config.cmdOffset ∧ v ≠ 0x02#8) →
      Effect s (.host (.write a v)) (s.refuse .busy)
  /-- an illegal command byte (R204) -/
  | refusedIllegal (v : Byte) : s.status.busy = false → decode v = .illegal →
      Effect s (.host (.write Config.cmdOffset v)) (s.refuse .illegal)
  /-- a cipher command without its bank (R206) -/
  | refusedNoKey (i : Instr) (k : Slot) : i.isOperation = true → s.status.busy = false → k ∈ i.needs →
      s.valid k = false → Effect s (.host (.write Config.cmdOffset (encode i))) (s.refuse .noKey)
  /-- a write that does nothing (spec/20_memory.md R54, R56) -/
  | ignored (a : Offset) (v : Byte) : 0x1F < a.toNat → a ≠ Config.cmdOffset → Effect s (.host (.write a v)) s
  /-- a write to `KEY` -/
  | keyWritten (a : Offset) (v : Byte) : s.status.busy = false → a.toNat ≤ 0x17 →
      Effect s (.host (.write a v)) (s.setKeyByte a.toNat v)
  /-- a write to `DIN` -/
  | dinWritten (a : Offset) (v : Byte) : s.status.busy = false → 0x17 < a.toNat → a.toNat ≤ 0x1F →
      Effect s (.host (.write a v)) (s.setDinByte (a.toNat - 0x18) v)
  /-- `CLRE` (spec/44_control.md R186) -/
  | errorCleared : s.status.busy = false → Effect s (.host (.write Config.cmdOffset 0x01#8)) s.clearErr
  /-- reset, or `SRST` (R187) -/
  | reset (t : Turn) : t.resets = true → Effect s t s.resetCore
  /-- an operation command is accepted (spec/70_reset_and_hazards.md R234) -/
  | accepted (i : Instr) : i.isOperation = true → s.status.busy = false → (∀ k ∈ i.needs, s.valid k = true) →
      Effect s (.host (.write Config.cmdOffset (encode i))) (s.accepted i)
  /-- the completion step (R236) -/
  | completed (i : Instr) : i.isOperation = true → decode s.cmd = .command i → s.status.busy = true →
      Effect s .engine (s.completed i)
  /-- a turn of the engine with nothing pending -/
  | idle : s.status.busy = false → Effect s .engine s

theorem issue_spec (s : State) (c : Byte) :
    ∃ t, issue c s = .next t ∧ Effect s (.host (.write Config.cmdOffset c)) t := by
  cases hd : decode c with
  | illegal =>
    cases hb : s.status.busy with
    | true =>
      refine ⟨_, by simp only [issue, hd, hb, if_true], .refusedBusy _ _ hb (.inr ⟨rfl, ?_⟩)⟩
      rintro rfl
      exact absurd hd (by decide)
    | false => exact ⟨_, by simp only [issue, hd, hb]; rfl, .refusedIllegal _ hb hd⟩
  | command i =>
    obtain rfl := encode_of_decode c i hd
    obtain ⟨t, ht, hi⟩ := exec_spec s i
    refine ⟨t, by simp [issue, hd, ht], ?_⟩
    cases hi with
    | softReset h => subst h; exact .reset _ rfl
    | busy hs hb => exact .refusedBusy _ _ hb (.inr ⟨rfl, by cases i <;> first | exact absurd rfl hs | decide⟩)
    | clearError h hb => subst h; exact .errorCleared hb
    | noKey k ho hb hk hv => exact .refusedNoKey i k ho hb hk hv
    | accepted ho hb hv => exact .accepted i ho hb hv

theorem dataWrite_spec (s : State) (a : Offset) (v : Byte) (ha : a ≠ Config.cmdOffset) :
    Effect s (.host (.write a v)) (dataWrite a v s) := by
  unfold dataWrite
  split
  case isFalse h => exact .ignored a v (by omega) ha
  case isTrue h =>
    split
    case isTrue hb => exact .refusedBusy a v hb (.inl h)
    case isFalse hb =>
      have hb : s.status.busy = false := by simpa using hb
      split
      case isTrue hk => exact .keyWritten a v hb hk
      case isFalse hk => exact .dinWritten a v hb (by omega) h

/-- A step of the host always goes on, with one of the effects. -/
theorem hostStep_spec (s : State) (op : HostOp) : ∃ t, hostStep op s = .next t ∧ Effect s (.host op) t := by
  cases op with
  | read a => exact ⟨_, rfl, .read a⟩
  | reset => exact ⟨_, rfl, .reset _ rfl⟩
  | write a v =>
    by_cases ha : a = Config.cmdOffset
    · subst ha
      obtain ⟨t, ht, he⟩ := issue_spec s v
      exact ⟨t, by simp [hostStep, memWrite, ht], he⟩
    · exact ⟨_, by simp [hostStep, memWrite, ha], dataWrite_spec s a v ha⟩

/-- A turn of the engine: with nothing pending nothing happens, and otherwise the pending operation command completes. -/
theorem engineTurn_effect (s t : State) (h : engineTurn s = .next t) : Effect s .engine t := by
  unfold engineTurn at h
  cases hb : s.status.busy with
  | false =>
    rw [hb] at h
    obtain rfl : s = t := by simpa using h
    exact .idle hb
  | true =>
    simp only [hb, if_true, complete] at h
    cases hd : decode s.cmd with
    | illegal => simp [hd] at h
    | command i =>
      simp only [hd] at h
      by_cases ho : i.isOperation = true
      · rw [completeOf_spec s ho] at h
        obtain rfl : s.completed i = t := by simpa using h
        exact .completed i ho hd hb
      · rcases Instr.eq_of_not_operation (Bool.not_eq_true _ ▸ ho) with rfl | rfl <;> simp [completeOf] at h

theorem turnStep_effect (s t : State) (u : Turn) (h : turnStep u s = .next t) : Effect s u t := by
  cases u with
  | engine => exact engineTurn_effect s t h
  | host op =>
    obtain ⟨t', ht, he⟩ := hostStep_spec s op
    have : t' = t := by
      have := ht.symm.trans h
      simpa using this
    exact this ▸ he

/-- The turn that the next step takes: with no turn left, the engine's. -/
def State.nextTurn (s : State) : Turn := s.turns.headD .engine

/-- The state in which the next step takes its turn. -/
def State.popTurn (s : State) : State := s.setTurns s.turns.tail

theorem step_eq (s : State) : step s = turnStep s.nextTurn s.popTurn := by
  cases h : s.turns with
  | nil =>
    have : s.popTurn = s := by cases s; simp_all [State.popTurn, State.setTurns]
    simp [step, h, State.nextTurn, this, turnStep]
  | cons t ts => simp [step, h, State.nextTurn, State.popTurn]

/-- Everything a step can do. -/
theorem step_effect (s t : State) (h : step s = .next t) : Effect s.popTurn s.nextTurn t :=
  turnStep_effect _ _ _ (step_eq s ▸ h)

end Sys2Proof.Machine
end

