-- ==== Sys2Proof/Laws/Port.lean ====
section
/-! SUPPORT. The register space read by offset (spec/20_memory.md R51, R52): one lemma for each range, and when two states
read the same at an offset. -/

namespace Sys2Proof.Machine

variable (s : State)

theorem memRead_key (i : Nat) (h : i < 24) : memRead s (BitVec.ofNat 6 i) = s.key[i] := by
  have e : (BitVec.ofNat 6 i).toNat = i := by
    rw [BitVec.toNat_ofNat]
    omega
  simp only [memRead, e]
  rw [dif_pos (by omega)]

theorem memRead_din (i : Nat) (h : i < 8) : memRead s (BitVec.ofNat 6 (0x18 + i)) = s.din[i] := by
  have e : (BitVec.ofNat 6 (0x18 + i)).toNat = 0x18 + i := by
    rw [BitVec.toNat_ofNat]
    omega
  simp only [memRead, e]
  rw [dif_neg (by omega), dif_pos (by omega)]
  congr 1
  omega

theorem memRead_dout (i : Nat) (h : i < 8) (hc : s.cipherPending = false) :
    memRead s (BitVec.ofNat 6 (0x20 + i)) = s.dout[i] := by
  have e : (BitVec.ofNat 6 (0x20 + i)).toNat = 0x20 + i := by
    rw [BitVec.toNat_ofNat]
    omega
  simp only [memRead, e, hc]
  rw [dif_neg (by omega), dif_neg (by omega), dif_pos (by omega)]
  simp only [Bool.false_eq_true, if_false]
  congr 1
  omega

theorem memRead_cmd : memRead s 0x28#6 = s.cmd := rfl

theorem memRead_status : memRead s 0x29#6 = s.status.byte := rfl

theorem memRead_reserved (a : Offset) (h : 0x2A ≤ a.toNat) : memRead s a = 0x00#8 := by
  unfold memRead
  rw [dif_neg (by omega), dif_neg (by omega), dif_neg (by omega), if_neg (by omega), if_neg (by omega)]

/-- A state in which nothing is pending has no cipher command pending. -/
theorem State.cipherPending_of_idle {s : State} (h : s.status.busy = false) : s.cipherPending = false := by
  rw [State.cipherPending, h, Bool.false_and]

/-- Two states read the same at an offset if they agree in the register there. For `DOUT` that is, the byte, and that no
cipher command is pending or the same free value is read. -/
theorem memRead_congr {s t : State} (a : Offset) (key : a.toNat ≤ 0x17 → t.key = s.key)
    (din : 0x17 < a.toNat → a.toNat ≤ 0x1F → t.din = s.din)
    (dout : 0x1F < a.toNat → a.toNat ≤ 0x27 → t.dout = s.dout ∧
      (t.cipherPending = false ∧ s.cipherPending = false ∨ t.cipherPending = s.cipherPending ∧ t.draws = s.draws))
    (cmd : a.toNat = 0x28 → t.cmd = s.cmd) (status : a.toNat = 0x29 → t.status = s.status) :
    memRead t a = memRead s a := by
  unfold memRead
  split
  case isTrue h => simp only [key h]
  case isFalse h1 =>
    split
    case isTrue h => simp only [din (by omega) h]
    case isFalse h2 =>
      split
      case isTrue h =>
        obtain ⟨hd, ⟨ht, hs⟩ | ⟨hc, hw⟩⟩ := dout (by omega) h
        · simp only [hd, ht, hs, Bool.false_eq_true, if_false]
        · simp only [hd, hc, hw]
      case isFalse h3 =>
        split
        case isTrue h => exact cmd h
        case isFalse h4 =>
          split
          case isTrue h => rw [status h]
          case isFalse h5 => rfl

theorem offset_toNat_ne {a b : Offset} (h : a ≠ b) : a.toNat ≠ b.toNat := fun e => h (BitVec.eq_of_toNat_eq e)

end Sys2Proof.Machine
end

