-- ==== Sys2Proof/Laws/Run.lean ====
section
/-! SUPPORT. A run of several steps: one more step first, two runs in a row, and the runs of host reads. -/

namespace Sys2Proof.Machine

@[simp] theorem run_zero (s : State) : run 0 s = .next s := rfl

theorem run_succ_of_step {s t : State} (n : Nat) (h : step s = .next t) : run (n + 1) s = run n t := by
  have h : Sys2Proof.core.step s = .next t := h
  simp only [run, Host.Core.run, h]
  rfl

/-- A run that goes on begins with a step that goes on. -/
theorem exists_step_of_run_succ {s u : State} {n : Nat} (h : run (n + 1) s = .next u) :
    ∃ t, step s = .next t ∧ run n t = .next u := by
  cases hs : step s with
  | next t => exact ⟨t, rfl, run_succ_of_step n hs ▸ h⟩
  | fault r =>
    have hs : Sys2Proof.core.step s = .fault r := hs
    simp [run, Host.Core.run, hs] at h
  | refused r =>
    have hs : Sys2Proof.core.step s = .refused r := hs
    simp [run, Host.Core.run, hs] at h

theorem run_add {s t : State} (m n : Nat) (h : run m s = .next t) : run (m + n) s = run n t := by
  induction m generalizing s with
  | zero =>
    obtain rfl : s = t := by simpa using h
    rw [Nat.zero_add]
  | succ m ih =>
    obtain ⟨s', hs, hr⟩ := exists_step_of_run_succ h
    rw [Nat.add_right_comm, run_succ_of_step _ hs, ih hr]

end Sys2Proof.Machine
end

