-- ==== Sys2Proof/Machine/Script.lean ====
section
/-! DEFINITION. The host script notation of spec/30_encoding.md R88, R89: one access a line, and the pseudo-instructions,
each with its expansion into turns; and when the run of a script is over (spec/70_reset_and_hazards.md R238). -/

namespace Sys2Proof.Machine

/-- A register name of the register map (spec/20_memory.md R51), which a script line may write in place of an offset
(R88). -/
inductive RegName where
  /-- `KEY[i]` -/
  | key (i : Fin 24)
  /-- `DIN[i]` -/
  | din (i : Fin 8)
  /-- `DOUT[i]` -/
  | dout (i : Fin 8)
  /-- `CMD` -/
  | cmd
  /-- `STATUS` -/
  | status
deriving DecidableEq, Repr

/-- The offset of the register (R51). -/
def RegName.offset : RegName → Offset
  | .key i => BitVec.ofNat 6 i.val
  | .din i => BitVec.ofNat 6 (0x18 + i.val)
  | .dout i => BitVec.ofNat 6 (0x20 + i.val)
  | .cmd => Config.cmdOffset
  | .status => Config.statusOffset

/-- A line of a host script (R88), pseudo-instructions among them (R89). -/
inductive ScriptLine where
  /-- `WR off, val` -/
  | wr (a : Offset) (v : Byte)
  /-- `RD off`, with the value that the script states -/
  | rd (a : Offset) (expected : Byte)
  /-- `<MNEMONIC>` -/
  | command (i : Instr)
  /-- `RESET` -/
  | reset
  /-- `LDKEY h` -/
  | ldkey (h : Vector Byte 24)
  /-- `LDK1 h`, `LDK2 h`, `LDK3 h` -/
  | ldk (k : Slot) (h : Vector Byte 8)
  /-- `LDBLK h` -/
  | ldblk (h : Vector Byte 8)
  /-- `RDBLK` -/
  | rdblk
  /-- `WAIT`, in the interleaving in which the host reads `STATUS` `polls` times before the engine's completion step and
  once after it (R237: any finite number, none included; notes/assumptions/16.md) -/
  | wait (polls : Nat)
deriving DecidableEq, Repr

/-- Writes of the listed bytes at ascending offsets from `base` (R89). -/
def writesFrom (base : Nat) : List Byte → List Turn
  | [] => []
  | v :: vs => .host (.write (BitVec.ofNat 6 base) v) :: writesFrom (base + 1) vs

/-- The read of `STATUS` that `WAIT` repeats (R89). -/
def pollTurn : Turn := .host (.read Config.statusOffset)

/-- The expansion of a line (R88, R89). -/
def ScriptLine.expand : ScriptLine → List Turn
  | .wr a v => [.host (.write a v)]
  | .rd a _ => [.host (.read a)]
  | .command i => [.host (.write Config.cmdOffset (encode i))]
  | .reset => [.host .reset]
  | .ldkey h => writesFrom 0x00 h.toList
  | .ldk k h => writesFrom k.keyBase h.toList
  | .ldblk h => writesFrom 0x18 h.toList
  | .rdblk => (List.range 8).map fun i => .host (.read (BitVec.ofNat 6 (0x20 + i)))
  | .wait polls => List.replicate polls pollTurn ++ [.engine, pollTurn]

/-- The values that the script states for the line's reads, one for each read. -/
def ScriptLine.expected : ScriptLine → List (Option Byte)
  | .rd _ v => [some v]
  | .rdblk => List.replicate 8 none
  | .wait polls => List.replicate (polls + 1) none
  | .wr _ _ => []
  | .command _ => []
  | .reset => []
  | .ldkey _ => []
  | .ldk _ _ => []
  | .ldblk _ => []

/-- The script waits at the host port of `s`, after what waits there already. -/
def State.withScript (s : State) (script : List ScriptLine) : State :=
  s.setTurns (s.turns ++ script.flatMap ScriptLine.expand)

/-- Do the bytes that the reads returned, first one first, have the values that the script states? -/
def readsAsStated : List (Option Byte) → List Byte → Bool
  | [], [] => true
  | none :: es, _ :: bs => readsAsStated es bs
  | some v :: es, b :: bs => v == b && readsAsStated es bs
  | _, _ => false

/-- The run of a script is over: no more lines and `BUSY = 0` (R238). A line is a host access or several
(`hostOps_expand_ne_nil`), so no line is left when no access is; a turn of the engine that is left is no line. -/
def State.runOver (s : State) : Bool := (hostOps s.turns).isEmpty && !s.status.busy

end Sys2Proof.Machine
end

