-- ==== Sys2Proof/Laws/Script.lean ====
section
/-! SUPPORT. When the run of a host script is over (spec/70_reset_and_hazards.md R238): the accesses left are the lines
left, and a run that is over stays over and changes no register. -/

namespace Sys2Proof.Machine

@[simp] theorem hostOps_append (us vs : List Turn) : hostOps (us ++ vs) = hostOps us ++ hostOps vs := by
  induction us with
  | nil => rfl
  | cons u us ih => cases u <;> simp [hostOps, ih]

@[simp] theorem hostOps_writesFrom_ne_nil (base : Nat) (bs : List Byte) : hostOps (writesFrom base bs) = [] ↔ bs = [] := by
  cases bs <;> simp [writesFrom, hostOps]

/-- Every line of a script is at least one access of the host. -/
theorem hostOps_expand_ne_nil (l : ScriptLine) : hostOps l.expand ≠ [] := by
  cases l with
  | ldkey h => simp [ScriptLine.expand]
  | ldk k h => simp [ScriptLine.expand]
  | ldblk h => simp [ScriptLine.expand]
  | wait polls => simp [ScriptLine.expand, pollTurn, hostOps]
  | wr | rd | command | reset | rdblk => exact List.cons_ne_nil _ _

@[simp] theorem runOver_iff (s : State) : s.runOver = true ↔ hostOps s.turns = [] ∧ s.status.busy = false := by
  simp [State.runOver]

/-- With a script waiting the run is over if it was over before and the script has no line. -/
theorem runOver_withScript (s : State) (script : List ScriptLine) :
    (s.withScript script).runOver = true ↔ s.runOver = true ∧ script = [] := by
  have lines : hostOps (script.flatMap ScriptLine.expand) = [] ↔ script = [] := by
    cases script with
    | nil => simp [hostOps]
    | cons l ls => simp [hostOps_expand_ne_nil l]
  simp [State.withScript, lines, and_right_comm]

/-- A run that is over stays over, and a step changes no register of the core. -/
theorem step_of_runOver {s : State} (h : s.runOver = true) : ∃ t, step s = .next t ∧ t.runOver = true ∧ SameCore s t := by
  obtain ⟨hl, hb⟩ := (runOver_iff s).mp h
  cases ht : s.turns with
  | nil => exact ⟨s, by simp [step, ht, engineTurn, hb], h, rfl, rfl, rfl, rfl, rfl, rfl⟩
  | cons u us =>
    cases u with
    | host op => simp [ht, hostOps] at hl
    | engine =>
      refine ⟨s.setTurns us, by simp [step, ht, turnStep, engineTurn, hb], ?_, rfl, rfl, rfl, rfl, rfl, rfl⟩
      simpa [ht, hostOps, hb] using hl

end Sys2Proof.Machine
end

