-- ==== Sys2Proof/Tests/Slice0.lean ====
section
/-! SUPPORT. The model's own tests. Expected values are written out from the spec (the source is named at each test); for
every statement of Certificates/Slice0/Obligations.lean that has hypotheses, a `witness_<statement>` meets them. -/

namespace Sys2Proof.Tests

open Sys2Proof.Machine

/-! ### Helpers -/

/-- The answer is a next state with the property. -/
def after (r : Result) (p : State → Bool) : Bool :=
  match r with
  | .next t => p t
  | .fault _ => false
  | .refused _ => false

/-- `STATUS` from the byte the spec prints for it (R27). -/
def statusOf (b : Byte) : Status :=
  ⟨b.getLsbD 0, b.getLsbD 1, ⟨b.getLsbD 2, b.getLsbD 3, b.getLsbD 4⟩,
    match (b.extractLsb' 5 2).toNat with
    | 0 => .none
    | 1 => .illegal
    | 2 => .noKey
    | _ => .busy⟩

/-- The secret "abcdefghijklmnopqrstuvwx" (spec/95_test_vectors.md section 7). -/
def secret : Vector Byte 24 := #v[
  0x61, 0x62, 0x63, 0x64, 0x65, 0x66, 0x67, 0x68, 0x69, 0x6A, 0x6B, 0x6C, 0x6D, 0x6E, 0x6F, 0x70,
  0x71, 0x72, 0x73, 0x74, 0x75, 0x76, 0x77, 0x78]

/-- The block "abcdefgh". -/
def abcdefgh : Vector Byte 8 := #v[0x61, 0x62, 0x63, 0x64, 0x65, 0x66, 0x67, 0x68]

/-- A small state with this `STATUS` byte and this `CMD`, every bank holding sixteen zero round keys. -/
def small (st cmd : Byte) : State where
  key := secret
  din := abcdefgh
  dout := #v[0xD0, 0xD1, 0xD2, 0xD3, 0xD4, 0xD5, 0xD6, 0xD7]
  ks := ⟨Vector.replicate 16 0#48, Vector.replicate 16 0#48, Vector.replicate 16 0#48⟩
  cmd := cmd
  status := statusOf st
  turns := []
  reads := []
  draws := 7

/-- The same with the schedules of the secret in the banks. -/
def keyed (st cmd : Byte) : State :=
  { small st cmd with
    ks := ⟨keysched 0x6162636465666768#64, keysched 0x696A6B6C6D6E6F70#64, keysched 0x7172737475767778#64⟩ }

/-- The same with a turn waiting. -/
def waiting (st cmd : Byte) (u : Turn) : State := (small st cmd).setTurns [u]

/-! ### Well-formedness: an ill-formed term for each check, which the check refuses -/

/-- R75, R79: for every group an argument it does not allow -/
theorem test_wf_fields_of_each_group :
    (CommandFields.wf ⟨0x0#4, 0x0#4⟩ = false ∧ CommandFields.wf ⟨0x0#4, 0x3#4⟩ = false) ∧
    CommandFields.wf ⟨0x1#4, 0x4#4⟩ = false ∧
    (CommandFields.wf ⟨0x2#4, 0x0#4⟩ = false ∧ CommandFields.wf ⟨0x2#4, 0x4#4⟩ = false) ∧
    (CommandFields.wf ⟨0x3#4, 0x0#4⟩ = false ∧ CommandFields.wf ⟨0x3#4, 0x4#4⟩ = false) ∧
    CommandFields.wf ⟨0x4#4, 0x1#4⟩ = false ∧ CommandFields.wf ⟨0x5#4, 0x1#4⟩ = false ∧
    CommandFields.wf ⟨0x6#4, 0x0#4⟩ = false ∧ CommandFields.wf ⟨0xF#4, 0xF#4⟩ = false := by decide

/-- R75, R76 -/
theorem test_wf_fields_allowed :
    CommandFields.wf ⟨0x0#4, 0x1#4⟩ = true ∧ CommandFields.wf ⟨0x1#4, 0x0#4⟩ = true ∧ CommandFields.wf ⟨0x3#4, 0x3#4⟩ = true ∧
    CommandFields.wf ⟨0x5#4, 0x0#4⟩ = true := by decide

/-- R86, R102: wrong lengths, an entry below 1, an entry past the input -/
theorem test_wf_tables_refused :
    tableWf 8 2 [1, 2, 3] = false ∧ tableWf 8 2 [1] = false ∧ tableWf 8 2 [0, 1] = false ∧ tableWf 8 2 [1, 9] = false := by decide

/-! ### Decoding: every command's byte, written out from its fields (R75, R78) -/

/-- `op` in bits 7:4, `arg` in bits 3:0 -/
theorem test_decode_control :
    decode (0b0000#4 ++ 0b0001#4) = .command .clre ∧ decodeTableWord 8 0b00000001 = some .clre ∧
    decode (0b0000#4 ++ 0b0010#4) = .command .srst ∧ decodeTableWord 8 0b00000010 = some .srst := by decide

/-- `op` in bits 7:4, `arg` in bits 3:0 -/
theorem test_decode_keySchedule :
    decode (0b0001#4 ++ 0b0000#4) = .command .kgena ∧ decodeTableWord 8 0b00010000 = some .kgena ∧
    decode (0b0001#4 ++ 0b0001#4) = .command .kgen1 ∧ decodeTableWord 8 0b00010001 = some .kgen1 ∧
    decode (0b0001#4 ++ 0b0010#4) = .command .kgen2 ∧ decodeTableWord 8 0b00010010 = some .kgen2 ∧
    decode (0b0001#4 ++ 0b0011#4) = .command .kgen3 ∧ decodeTableWord 8 0b00010011 = some .kgen3 := by decide

/-- `op` in bits 7:4, `arg` in bits 3:0 -/
theorem test_decode_desEncrypt :
    decode (0b0010#4 ++ 0b0001#4) = .command .dese1 ∧ decodeTableWord 8 0b00100001 = some .dese1 ∧
    decode (0b0010#4 ++ 0b0010#4) = .command .dese2 ∧ decodeTableWord 8 0b00100010 = some .dese2 ∧
    decode (0b0010#4 ++ 0b0011#4) = .command .dese3 ∧ decodeTableWord 8 0b00100011 = some .dese3 := by decide

/-- `op` in bits 7:4, `arg` in bits 3:0 -/
theorem test_decode_desDecrypt :
    decode (0b0011#4 ++ 0b0001#4) = .command .desd1 ∧ decodeTableWord 8 0b00110001 = some .desd1 ∧
    decode (0b0011#4 ++ 0b0010#4) = .command .desd2 ∧ decodeTableWord 8 0b00110010 = some .desd2 ∧
    decode (0b0011#4 ++ 0b0011#4) = .command .desd3 ∧ decodeTableWord 8 0b00110011 = some .desd3 := by decide

/-- `op` in bits 7:4, `arg` in bits 3:0 -/
theorem test_decode_tdes :
    decode (0b0100#4 ++ 0b0000#4) = .command .tdese ∧ decodeTableWord 8 0b01000000 = some .tdese ∧
    decode (0b0101#4 ++ 0b0000#4) = .command .tdesd ∧ decodeTableWord 8 0b01010000 = some .tdesd := by decide

/-- R79: the ends of its ranges -/
theorem test_decode_illegal_at_range_ends :
    ([0x00#8, 0x03#8, 0x0F#8, 0x14#8, 0x1F#8, 0x20#8, 0x24#8, 0x2F#8, 0x30#8, 0x34#8, 0x3F#8, 0x41#8, 0x4F#8, 0x51#8,
      0x5F#8, 0x60#8, 0xFF#8].all fun c => decode c == .illegal) = true ∧ decodeTableWord 8 0x41 = none := by decide

/-! ### Configuration -/

/-- R9, R10, R152: the values agree with the types and tables that are used -/
theorem test_widths :
    Config.blockBytes * 8 = 64 ∧ Config.halfBytes * 8 = 32 ∧ Config.expBytes * 8 = 48 ∧ Config.rkBytes * 8 = 48 ∧
    Config.keyBytes * 8 = 64 ∧ Config.nSched * Config.keyBytes = Config.secretBytes ∧ Config.regSpace = 2 ^ 6 ∧
    rotations.length = Config.nRounds ∧ rotations.sum * 2 = Config.cdBits ∧ Slot.all.length = Config.nSched := by decide

/-! ### Permutations, S-boxes and F (spec/95_test_vectors.md section 6) -/

/-- section 6 -/
theorem test_permute_ip_fp :
    permute tableIP 0x0123456789ABCDEF#64 = 0xCC00CCFFF0AAF0AA#64 ∧ permute tableIP 0x8000000000000000#64 = 0x0000000001000000#64 ∧
    permute tableIP 0x0000000000000001#64 = 0x0000008000000000#64 ∧ permute tableFP 0xCC00CCFFF0AAF0AA#64 = 0x0123456789ABCDEF#64 ∧
    permute tableFP 0x8000000000000000#64 = 0x0000000000000040#64 ∧ permute tableFP 0x0000000000000001#64 = 0x0200000000000000#64 ∧
    permute tableIP 0x6162636465666768#64 = 0xFF00785500FF8066#64 := by decide +kernel

/-- section 6 -/
theorem test_permute_e_p :
    permute tableE 0x80000000#32 = 0x400000000001#48 ∧ permute tableE 0x00000001#32 = 0x800000000002#48 ∧
    permute tableE 0x00FF8066#32 = 0x0017FFC0030C#48 ∧ permute tableP 0x5C82B597#32 = 0x234AA9BB#32 ∧
    permute tableP 0x80000000#32 = 0x00800000#32 ∧ permute tableP 0x00000001#32 = 0x00000800#32 := by decide +kernel

/-- section 6 -/
theorem test_permute_pc1_pc2 :
    permute tablePC1 0x133457799BBCDFF1#64 = 0xF0CCAAF556678F#56 ∧ permute tablePC1 0x6162636465666768#64 = 0x00FFFF06678800#56 ∧
    permute tablePC1 0x0101010101010101#64 = 0#56 ∧ permute tablePC1 0xFEFEFEFEFEFEFEFE#64 = 0xFFFFFFFFFFFFFF#56 ∧
    permute tablePC2 0xE19955FAACCF1E#56 = 0x1B02EFFC7072#48 ∧ permute tablePC2 0x01FFFE0CCF1000#56 = 0xE0BE66132A82#48 := by decide +kernel

/-- section 6: the first bit is the high row bit -/
theorem test_sbox_row_and_column :
    sbox 0 0b011000#6 = 0x5#4 ∧ sbox 0 0b100001#6 = 0xF#4 ∧ sbox 0 0b100000#6 = 0x4#4 ∧ sbox 0 0b000001#6 = 0x0#4 := by decide +kernel

/-- section 6 -/
theorem test_subst_and_f :
    subst 0x6117BA866527#48 = 0x5C82B597#32 ∧ feistelF 0xF0AAF0AA#32 0x1B02EFFC7072#48 = 0x234AA9BB#32 ∧
    feistelF 0x00FF8066#32 0xE0BE66132A82#48 = 0xC71C4B03#32 := by decide +kernel

/-! ### Key schedules, DES, Triple-DES (spec/95_test_vectors.md sections 2, 4, 5, 7) -/

/-- section 2: all sixteen round keys -/
theorem test_keysched_published :
    keysched 0x133457799BBCDFF1#64 = #v[0x1B02EFFC7072, 0x79AED9DBC9E5, 0x55FC8A42CF99, 0x72ADD6DB351D, 0x7CEC07EB53A8,
      0x63A53E507B2F, 0xEC84B7F618BC, 0xF78A3AC13BFB, 0xE0DBEBEDE781, 0xB1F347BA464F, 0x215FD3DED386, 0x7571F59467E9,
      0x97C5D1FABA41, 0x5F43B7F2E73A, 0xBF918D3D3F0A, 0xCB3D8B0E17F5] := by decide +kernel

/-- section 4.4 -/
theorem test_keysched_parity :
    keysched 0x6063626564676669#64 = keysched 0x6162636465666768#64 ∧ keysched 0#64 = Vector.replicate 16 0#48 := by decide +kernel

/-- section 2: the pairs after round 0 and after round 15 -/
theorem test_rounds_published :
    feistelRounds (keysched 0x133457799BBCDFF1#64) 15 [0] (0xCC00CCFF#32, 0xF0AAF0AA#32) = (0xF0AAF0AA#32, 0xEF4A6544#32) ∧
    feistelRounds (keysched 0x133457799BBCDFF1#64) 15 encryptOrder (0xCC00CCFF#32, 0xF0AAF0AA#32) = (0x0A4CD995#32, 0x43423234#32) := by decide +kernel

/-- section 5.2 -/
theorem test_des_vectors :
    desEnc 0x4E6F772069732074#64 (keysched 0x0123456789ABCDEF#64) = 0x3FA40E8A984D4815#64 ∧
    desEnc 0x0000000000000000#64 (keysched 0x8001010101010101#64) = 0x95A8D72813DAA94D#64 ∧
    desDec 0x6162636465666768#64 (keysched 0x6162636465666768#64) = 0x4AFEA4B99B3C9A9D#64 := by decide +kernel

/-- section 5.1: the model follows reading A of C1; the refuted reading gives the other value -/
theorem test_refuted_decryption_reading :
    desDec 0x2A8D69DE9D5FDFF9#64 (keysched 0x6162636465666768#64) = 0x6162636465666768#64 ∧
    permute tableFP (joinHalves (feistelRounds (keysched 0x6162636465666768#64) 15 decryptOrder
      (splitBlock (permute tableIP 0x2A8D69DE9D5FDFF9#64)))) = 0x3AFA0C11F6D5DA12#64 := by decide +kernel

/-! ### Issuing commands (spec/95_test_vectors.md section 8: state before, host write, state after) -/

/-- rows 1: `ERR_NOKEY` -/
theorem test_dese1_without_schedule :
    after (memWrite 0x28#6 0x21#8 (small 0x00#8 0x00#8)) (fun t => t.status.byte == 0x40#8 && t.cmd == 0x00#8 &&
      t.key == secret && t.din == abcdefgh && t.dout == (small 0#8 0#8).dout) = true := by decide

/-- row 2: the first error is kept -/
theorem test_illegal_keeps_first_error :
    after (memWrite 0x28#6 0x00#8 (small 0x40#8 0x00#8)) (fun t => t.status.byte == 0x40#8 && t.cmd == 0x00#8) = true := by decide

/-- row 3 -/
theorem test_clre_clears :
    after (memWrite 0x28#6 0x01#8 (small 0x40#8 0x00#8)) (fun t => t.status.byte == 0x00#8 && t.cmd == 0x00#8) = true := by decide

/-- row 4 -/
theorem test_illegal_slot :
    after (memWrite 0x28#6 0x24#8 (small 0x00#8 0x00#8)) (fun t => t.status.byte == 0x20#8 && t.cmd == 0x00#8) = true := by decide

/-- row 5 -/
theorem test_illegal_tdese_argument :
    after (memWrite 0x28#6 0x41#8 (small 0x00#8 0x00#8)) (fun t => t.status.byte == 0x20#8 && t.cmd == 0x00#8) = true := by decide

/-- row 6 -/
theorem test_kgen1_accepted :
    after (memWrite 0x28#6 0x11#8 (small 0x00#8 0x00#8)) (fun t => t.status.byte == 0x01#8 && t.cmd == 0x11#8 &&
      t.key == secret && t.din == abcdefgh && t.dout == (small 0#8 0#8).dout) = true := by decide

/-- row 7 -/
theorem test_tdese_without_schedules :
    after (memWrite 0x28#6 0x40#8 (small 0x06#8 0x11#8)) (fun t => t.status.byte == 0x46#8 && t.cmd == 0x11#8) = true := by decide

/-- row 8: `DONE` is cleared, `KV1` stays -/
theorem test_kgen2_accepted :
    after (memWrite 0x28#6 0x12#8 (small 0x06#8 0x11#8)) (fun t => t.status.byte == 0x05#8 && t.cmd == 0x12#8 &&
      t.key == secret && t.din == abcdefgh && t.dout == (small 0#8 0#8).dout) = true := by decide

/-- row 9: all `KV` are cleared -/
theorem test_kgena_accepted :
    after (memWrite 0x28#6 0x10#8 (small 0x1E#8 0x13#8)) (fun t => t.status.byte == 0x01#8 && t.cmd == 0x10#8 &&
      t.key == secret && t.din == abcdefgh && t.dout == (small 0#8 0#8).dout) = true := by decide

/-- row 10 -/
theorem test_tdese_accepted :
    after (memWrite 0x28#6 0x40#8 (small 0x1E#8 0x10#8)) (fun t => t.status.byte == 0x1D#8 && t.cmd == 0x40#8 &&
      t.key == secret && t.din == abcdefgh && t.dout == (small 0#8 0#8).dout) = true := by decide

/-- row 12 -/
theorem test_dese1_busy :
    after (memWrite 0x28#6 0x21#8 (small 0x1D#8 0x40#8)) (fun t => t.status.byte == 0x7D#8 && t.cmd == 0x40#8) = true := by decide

/-- row 13: refused -/
theorem test_clre_busy :
    after (memWrite 0x28#6 0x01#8 (small 0x1D#8 0x40#8)) (fun t => t.status.byte == 0x7D#8 && t.cmd == 0x40#8) = true := by decide

/-- row 14: all registers zero -/
theorem test_srst_busy :
    after (memWrite 0x28#6 0x02#8 (small 0x1D#8 0x40#8)) (fun t => t.status.byte == 0x00#8 && t.cmd == 0x00#8 &&
      t.key == Vector.replicate 24 0#8 && t.din == Vector.replicate 8 0#8 && t.dout == Vector.replicate 8 0#8) = true := by decide

/-- row 16 -/
theorem test_busy_wins_over_noKey :
    after (memWrite 0x28#6 0x21#8 (small 0x01#8 0x11#8)) (fun t => t.status.byte == 0x61#8 && t.cmd == 0x11#8) = true := by decide

/-- row 11 -/
theorem test_din_write_busy :
    after (memWrite 0x18#6 0xAA#8 (small 0x1D#8 0x40#8)) (fun t => t.status.byte == 0x7D#8 && t.din == abcdefgh) = true := by decide

/-- row 15: no change, no error -/
theorem test_readOnly_writes_busy :
    ([0x20#6, 0x27#6, 0x29#6, 0x2A#6, 0x30#6, 0x3F#6].all fun a =>
      after (memWrite a 0xAA#8 (small 0x1D#8 0x40#8)) (fun t => t == small 0x1D#8 0x40#8)) = true := by decide +kernel

/-! ### Completion (sections 7, 8, and the programs of section 9) -/

/-- row 6; section 4.1: `RK[0]` and `RK[15]` of bank 1 -/
theorem test_kgen1_completes :
    after (engineTurn (small 0x01#8 0x11#8)) (fun t => t.status.byte == 0x06#8 && t.cmd == 0x11#8 && t.key == secret &&
      t.dout == (small 0#8 0#8).dout && t.ks.k1[0] == 0xE0BE66132A82#48 && t.ks.k1[15] == 0xF0BE26A34280#48 &&
      t.ks.k2[0] == 0#48 && t.ks.k3[0] == 0#48) = true := by decide +kernel

/-- row 8; section 4.2: bank 2 from key bytes 8..15 -/
theorem test_kgen2_completes :
    after (engineTurn (small 0x05#8 0x12#8)) (fun t => t.status.byte == 0x0E#8 && t.cmd == 0x12#8 && t.key == secret &&
      t.dout == (small 0#8 0#8).dout && t.ks.k2[0] == 0xF0BE661BF6AA#48 && t.ks.k2[15] == 0xF0BE26EB96A8#48 &&
      t.ks.k1[0] == 0#48 && t.ks.k3[0] == 0#48) = true := by decide +kernel

/-- R155; section 4.2: bank 3 from key bytes 16..23 -/
theorem test_kgen3_completes :
    after (engineTurn (small 0x01#8 0x13#8)) (fun t => t.status.byte == 0x12#8 && t.cmd == 0x13#8 && t.key == secret &&
      t.dout == (small 0#8 0#8).dout && t.ks.k3[0] == 0xF0BEEE572AC2#48 && t.ks.k3[15] == 0xF1BEAEA743C0#48 &&
      t.ks.k1[0] == 0#48 && t.ks.k2[0] == 0#48) = true := by decide +kernel

/-- row 9; sections 4.1, 4.2 -/
theorem test_kgena_completes :
    after (engineTurn (small 0x01#8 0x10#8)) (fun t => t.status.byte == 0x1E#8 && t.cmd == 0x10#8 && t.key == secret &&
      t.dout == (small 0#8 0#8).dout && t.ks.k1[0] == 0xE0BE66132A82#48 && t.ks.k2[0] == 0xF0BE661BF6AA#48 &&
      t.ks.k3[0] == 0xF0BEEE572AC2#48) = true := by decide +kernel

/-- program P1 -/
theorem test_dese1_completes :
    after (engineTurn (keyed 0x05#8 0x21#8)) (fun t => t.status.byte == 0x06#8 && t.cmd == 0x21#8 && t.key == secret &&
      t.din == abcdefgh && t.dout == #v[0x2A, 0x8D, 0x69, 0xDE, 0x9D, 0x5F, 0xDF, 0xF9]) = true := by decide +kernel

/-- section 5.2 -/
theorem test_desd1_completes :
    after (engineTurn (keyed 0x05#8 0x31#8)) (fun t => t.status.byte == 0x06#8 && t.cmd == 0x31#8 && t.key == secret &&
      t.din == abcdefgh && t.dout == #v[0x4A, 0xFE, 0xA4, 0xB9, 0x9B, 0x3C, 0x9A, 0x9D]) = true := by decide +kernel

/-- program P4 -/
theorem test_desd2_completes :
    after (engineTurn (keyed 0x1D#8 0x32#8)) (fun t => t.status.byte == 0x1E#8 && t.cmd == 0x32#8 && t.key == secret &&
      t.din == abcdefgh && t.dout == #v[0x19, 0x27, 0xCE, 0x89, 0xCA, 0x74, 0x17, 0xDD]) = true := by decide +kernel

/-- section 7, pass 1 of the third line -/
theorem test_desd3_completes :
    after (engineTurn (keyed 0x1D#8 0x33#8)) (fun t => t.status.byte == 0x1E#8 && t.cmd == 0x33#8 && t.key == secret &&
      t.din == abcdefgh && t.dout == #v[0x2E, 0x6A, 0x7E, 0x8F, 0x48, 0x4F, 0x36, 0xF0]) = true := by decide +kernel

/-- row 10; section 7 -/
theorem test_tdese_completes :
    after (engineTurn (keyed 0x1D#8 0x40#8)) (fun t => t.status.byte == 0x1E#8 && t.cmd == 0x40#8 && t.key == secret &&
      t.din == abcdefgh && t.dout == #v[0x6E, 0x1A, 0x58, 0x10, 0xB9, 0xF3, 0xAB, 0xAF]) = true := by decide +kernel

/-- section 7 -/
theorem test_tdesd_completes :
    after (engineTurn (keyed 0x1D#8 0x50#8)) (fun t => t.status.byte == 0x1E#8 && t.cmd == 0x50#8 && t.key == secret &&
      t.din == abcdefgh && t.dout == #v[0x50, 0x4D, 0x7D, 0x28, 0x78, 0x88, 0xD5, 0x78]) = true := by decide +kernel

/-- section 5.2 -/
theorem test_dese2_completes :
    after (engineTurn { small 0x1D#8 0x22#8 with
        din := #v[0x4E, 0x6F, 0x77, 0x20, 0x69, 0x73, 0x20, 0x74],
        ks := ⟨Vector.replicate 16 0#48, keysched 0x0123456789ABCDEF#64, Vector.replicate 16 0#48⟩ })
      (fun t => t.status.byte == 0x1E#8 && t.dout == #v[0x3F, 0xA4, 0x0E, 0x8A, 0x98, 0x4D, 0x48, 0x15]) = true := by decide +kernel

/-- section 5.2 -/
theorem test_dese3_completes :
    after (engineTurn { small 0x1D#8 0x23#8 with
        din := Vector.replicate 8 0xFF#8,
        ks := ⟨Vector.replicate 16 0#48, Vector.replicate 16 0#48, keysched 0xFFFFFFFFFFFFFFFF#64⟩ })
      (fun t => t.status.byte == 0x1E#8 && t.dout == #v[0x73, 0x59, 0xB2, 0x16, 0x3E, 0x4E, 0xDC, 0x58]) = true := by decide +kernel

/-- row 12: the TDESE still completes, ERR is kept -/
theorem test_completion_keeps_err :
    after (engineTurn (small 0x7D#8 0x40#8)) (fun t => t.status.byte == 0x7E#8) = true := by decide +kernel

/-! ### The register space (R51 to R57) -/

/-- R52 at the ends of every range -/
theorem test_read_offsets :
    memRead (small 0x1E#8 0x40#8) 0x00#6 = 0x61#8 ∧ memRead (small 0x1E#8 0x40#8) 0x17#6 = 0x78#8 ∧
    memRead (small 0x1E#8 0x40#8) 0x18#6 = 0x61#8 ∧ memRead (small 0x1E#8 0x40#8) 0x1F#6 = 0x68#8 ∧
    memRead (small 0x1E#8 0x40#8) 0x20#6 = 0xD0#8 ∧ memRead (small 0x1E#8 0x40#8) 0x27#6 = 0xD7#8 ∧
    memRead (small 0x1E#8 0x40#8) 0x28#6 = 0x40#8 ∧ memRead (small 0x1E#8 0x40#8) 0x29#6 = 0x1E#8 ∧
    memRead (small 0x1E#8 0x40#8) 0x2A#6 = 0x00#8 ∧ memRead (small 0x1E#8 0x40#8) 0x3F#6 = 0x00#8 := by decide

/-- R52: `DOUT` keeps its value while a key-schedule command is pending -/
theorem test_read_dout_during_kgen :
    memRead (small 0x01#8 0x11#8) 0x20#6 = 0xD0#8 ∧ memRead (small 0x01#8 0x11#8) 0x27#6 = 0xD7#8 := by decide

/-- R53 at the ends of `KEY` and `DIN` -/
theorem test_write_offsets :
    after (memWrite 0x00#6 0xAA#8 (small 0x1E#8 0x40#8)) (fun t => memRead t 0x00#6 == 0xAA#8 && memRead t 0x01#6 == 0x62#8) = true ∧
    after (memWrite 0x17#6 0xAA#8 (small 0x1E#8 0x40#8)) (fun t => memRead t 0x17#6 == 0xAA#8 && t.din == abcdefgh) = true ∧
    after (memWrite 0x18#6 0xAA#8 (small 0x1E#8 0x40#8)) (fun t => memRead t 0x18#6 == 0xAA#8 && t.key == secret) = true ∧
    after (memWrite 0x1F#6 0xAA#8 (small 0x1E#8 0x40#8)) (fun t => memRead t 0x1F#6 == 0xAA#8 && t.status.byte == 0x1E#8) = true := by decide

/-- R27, R29: each bit and each code -/
theorem test_status_byte :
    (small 0x01#8 0#8).status.byte = 0x01#8 ∧ (small 0x02#8 0#8).status.byte = 0x02#8 ∧ (small 0x04#8 0#8).status.byte = 0x04#8 ∧
    (small 0x08#8 0#8).status.byte = 0x08#8 ∧ (small 0x10#8 0#8).status.byte = 0x10#8 ∧
    (Status.byte ⟨false, false, ⟨false, false, false⟩, .illegal⟩ = 0x20#8 ∧ Status.byte ⟨false, false, ⟨false, false, false⟩, .noKey⟩ = 0x40#8 ∧
      Status.byte ⟨false, false, ⟨false, false, false⟩, .busy⟩ = 0x60#8) := by decide

/-! ### Steps -/

/-- R36 -/
theorem test_reset_registers :
    ([0x00#6, 0x17#6, 0x18#6, 0x1F#6, 0x20#6, 0x27#6, 0x28#6, 0x29#6, 0x2A#6, 0x3F#6].all fun a =>
      memRead State.reset a == 0x00#8) = true := by decide

/-- section 8, rows 6 and 1, as the first step after reset -/
theorem test_step_runs_the_table_word :
    after (step (State.reset.withFetchWord 8 0x11)) (fun t => t.status.byte == 0x01#8 && t.cmd == 0x11#8 && t.turns == []) = true ∧
    after (step (State.reset.withFetchWord 8 0x21)) (fun t => t.status.byte == 0x40#8 && t.cmd == 0x00#8) = true := by decide

/-- R220: an idle core keeps all its state -/
theorem test_step_idle_with_no_turn :
    after (step (small 0x06#8 0x11#8)) (fun t => t == small 0x06#8 0x11#8) = true := by decide +kernel

/-- R52, R61 -/
theorem test_step_read_is_handed_over :
    after (step (waiting 0x1E#8 0x40#8 (.host (.read 0x29#6)))) (fun t => t.reads == [0x1E#8] && t.status.byte == 0x1E#8) = true := by decide

/-- R51, R88 -/
theorem test_register_names :
    (RegName.key 23).offset = 0x17#6 ∧ (RegName.din 0).offset = 0x18#6 ∧ (RegName.dout 7).offset = 0x27#6 ∧ RegName.cmd.offset = 0x28#6 ∧
    RegName.status.offset = 0x29#6 := by decide

/-- R238: an engine's turn is no line of the script; a pending completion is still to come; a line is left -/
theorem test_run_over :
    ((small 0x06#8 0x11#8).setTurns [.engine]).runOver = true ∧ ((small 0x1D#8 0x40#8).setTurns [.engine]).runOver = false ∧
    (waiting 0x06#8 0x11#8 (.host (.read 0x29#6))).runOver = false := by decide

/-- R88, R89; program P1's encodings -/
theorem test_script_expansion :
    (ScriptLine.ldblk abcdefgh).expand = (List.range 8).map (fun i => .host (.write (BitVec.ofNat 6 (0x18 + i)) (BitVec.ofNat 8 (0x61 + i)))) ∧
    (ScriptLine.command .dese1).expand = [.host (.write 0x28#6 0x21#8)] := by decide +kernel

/-! ### Witnesses: for every statement with hypotheses, states and operands that meet them, for each clause -/

/-- IllegalBytesAreRefused: a byte of each BUSY case. -/
theorem witness_IllegalBytesAreRefused : decode 0x00#8 = .illegal ∧ decode 0xFF#8 = .illegal ∧
    (small 0x1D#8 0x40#8).status.busy = true ∧ (small 0x1E#8 0x40#8).status.busy = false := by decide

/-- The reversal table of R100. -/
def tableReversal : Table 8 8 := ⟨[8, 7, 6, 5, 4, 3, 2, 1], by decide⟩

/-- The identity table of R111. -/
def tableIdentity : Table 8 8 := ⟨[1, 2, 3, 4, 5, 6, 7, 8], by decide⟩

/-- PermuteSelectsBits: a table with the stated entries. -/
theorem witness_PermuteSelectsBits : ∃ T : Table 8 8, T.entries = [8, 7, 6, 5, 4, 3, 2, 1] ∧ permute T 0xB2#8 = 0x4D#8 :=
  ⟨tableReversal, rfl, by decide +kernel⟩

/-- PermuteIdentityAndInversePair: the identity table, and the pair of the reversal with itself. -/
theorem witness_PermuteIdentityAndInversePair : tableIdentity.entries = List.range' 1 8 ∧
    ∀ i u, tableReversal.entries[i]? = some u → tableReversal.entries[u - 1]? = some (i + 1) := by
  refine ⟨rfl, fun i u h => ?_⟩
  obtain ⟨hi, rfl⟩ := List.getElem?_eq_some_iff.mp h
  have all : ∀ i : Fin 8, tableReversal.entries[tableReversal.entries[i.val] - 1]? = some (i.val + 1) := by decide
  exact all ⟨i, hi⟩

/-- FinalPermutationInvertsInitial: the ends of the index range. -/
theorem witness_FinalPermutationInvertsInitial : (0 < 64 ∧ 63 < 64) ∧ tableIP.entries.getD 63 0 = 7 := by decide

/-- TableEntryFacts: the ends of the index ranges. -/
theorem witness_TableEntryFacts : (0 < 64 ∧ 63 < 64) ∧ (0 < 8 ∧ 7 < 8 ∧ 0 < 6 ∧ 5 < 6) ∧ 58 ∈ tableIP.entries ∧
    5 ∈ tablePC2.entries.take 24 ∧ 32 ∈ tablePC2.entries.drop 24 := by decide

/-- SboxLookup: the group 011000 has row 0 and column 12. -/
theorem witness_SboxLookup : (0 : Fin 4).val = 2 * ((0b011000#6).getMsbD 0).toNat + ((0b011000#6).getMsbD 5).toNat ∧
    (12 : Fin 16).val = 8 * ((0b011000#6).getMsbD 1).toNat + 4 * ((0b011000#6).getMsbD 2).toNat +
      2 * ((0b011000#6).getMsbD 3).toNat + ((0b011000#6).getMsbD 4).toNat := by decide

/-- DecryptionIsEncryptionWithReversedKeys: a schedule of distinct keys and its reversal. -/
theorem witness_DecryptionIsEncryptionWithReversedKeys :
    ∃ S S2 : KeySchedule, S[0] ≠ S[15] ∧ ∀ i : Fin 16, S2[i] = S[15 - i.val] :=
  ⟨Vector.ofFn fun i => BitVec.ofNat 48 i.val, Vector.ofFn fun i => BitVec.ofNat 48 (15 - i.val), by decide, by simp⟩

/-- The halves of R134 for the block `B` and the schedule `S`, round after round. -/
def textbookHalves (B : Block) (S : KeySchedule) : Nat → HalfBlock × HalfBlock
  | 0 => splitBlock (permute tableIP B)
  | n + 1 => ((textbookHalves B S n).2, (textbookHalves B S n).1 ^^^ feistelF (textbookHalves B S n).2 (S[n]?.getD 0#48))

/-- TextbookDes: for every block and schedule there are the halves that it speaks of. -/
theorem witness_TextbookDes : ∀ (B : Block) (S : KeySchedule), ∃ L R : Nat → HalfBlock, L 0 ++ R 0 = permute tableIP B ∧
    ∀ n : Fin 16, L (n.val + 1) = R n.val ∧ R (n.val + 1) = L n.val ^^^ feistelF (R n.val) S[n] := by
  refine fun B S => ⟨fun n => (textbookHalves B S n).1, fun n => (textbookHalves B S n).2, ?_, fun n => ⟨rfl, ?_⟩⟩
  · simp only [textbookHalves, splitBlock]
    bv_normalize
  · simp [textbookHalves]

/-- RotationSchedule: the ends of the range. -/
theorem witness_RotationSchedule : 0 < 16 ∧ 15 < 16 ∧ rotations[15]? = some 1 := by decide

/-- ParityBitsIgnored: the two keys of spec/95_test_vectors.md section 4.4. -/
theorem witness_ParityBitsIgnored :
    0x6063626564676669#64 &&& 0xFEFEFEFEFEFEFEFE#64 = 0x6162636465666768#64 &&& 0xFEFEFEFEFEFEFEFE#64 ∧
    0x6063626564676669#64 ≠ 0x6162636465666768#64 := by decide

/-- EqualRoundKeysMakeDesSelfInverse: keys whose halves are all zeros, all ones, and one of each. -/
theorem witness_EqualRoundKeysMakeDesSelfInverse :
    permute tablePC1 0x0101010101010101#64 = 0#28 ++ 0#28 ∧
    permute tablePC1 0xFEFEFEFEFEFEFEFE#64 = BitVec.allOnes 28 ++ BitVec.allOnes 28 ∧
    permute tablePC1 0x1F1F1F1F0E0E0E0E#64 = 0#28 ++ BitVec.allOnes 28 ∧
    permute tablePC1 0xE0E0E0E0F1F1F1F1#64 = BitVec.allOnes 28 ++ 0#28 := by decide +kernel

/-- TripleDesIsThreeSingleCommands: idle with all banks valid. -/
theorem witness_TripleDesIsThreeSingleCommands :
    (small 0x1E#8 0x10#8).status.busy = false ∧ ∀ k, (small 0x1E#8 0x10#8).valid k = true :=
  ⟨rfl, fun k => by cases k <;> rfl⟩

/-- TdesdDecryptsDinToDout: idle with all banks valid, busy, and idle with a bank not valid. -/
theorem witness_TdesdDecryptsDinToDout :
    ((small 0x1E#8 0x10#8).status.busy = false ∧ ∀ k, (small 0x1E#8 0x10#8).valid k = true) ∧
    (small 0x1D#8 0x50#8).status.busy = true ∧
    (small 0x06#8 0x11#8).status.busy = false ∧ (small 0x06#8 0x11#8).valid .k2 = false :=
  ⟨⟨rfl, fun k => by cases k <;> rfl⟩, by decide⟩

/-- TdeseEncryptsDinToDout: idle with all banks valid; busy; and idle with each of the banks not valid. -/
theorem witness_TdeseEncryptsDinToDout :
    ((small 0x1E#8 0x10#8).status.busy = false ∧ ∀ k, (small 0x1E#8 0x10#8).valid k = true) ∧
    (small 0x1D#8 0x40#8).status.busy = true ∧
    ((small 0x0E#8 0x12#8).status.busy = false ∧ (small 0x0E#8 0x12#8).valid .k3 = false) ∧
    ((small 0x16#8 0x13#8).status.busy = false ∧ (small 0x16#8 0x13#8).valid .k2 = false) ∧
    (small 0x1A#8 0x13#8).status.busy = false ∧ (small 0x1A#8 0x13#8).valid .k1 = false := by
  refine ⟨⟨rfl, fun k => by cases k <;> rfl⟩, by decide⟩

/-- ClearErrorCommand: idle, busy, and `STATUS` 0x40. -/
theorem witness_ClearErrorCommand : (small 0x46#8 0x11#8).status.busy = false ∧ (small 0x1D#8 0x40#8).status.busy = true ∧
    (small 0x40#8 0x00#8).status.byte = 0x40#8 ∧ ∃ t, exec .clre (small 0x40#8 0x00#8) = .next t :=
  ⟨by decide, by decide, by decide, _, rfl⟩

/-- ErrGatesNothing: a turn that goes on, of each agent. -/
theorem witness_ErrGatesNothing :
    (∃ t, turnStep (.host (.write 0x28#6 0x40#8)) (small 0x1E#8 0x10#8) = .next t) ∧
    ∃ t, turnStep .engine (small 0x1D#8 0x40#8) = .next t := ⟨⟨_, rfl⟩, _, rfl⟩

/-- IssueTestsInOrder: a byte and a state for each of the six clauses. -/
theorem witness_IssueTestsInOrder :
    ((0x21#8 : Byte) ≠ 0x02#8 ∧ (small 0x1D#8 0x40#8).status.busy = true) ∧
    (small 0x06#8 0x11#8).status.busy = false ∧ decode 0x24#8 = .illegal ∧
    (decode 0x22#8 = .command .dese2 ∧ Instr.isOperation .dese2 = true ∧
      ∃ k ∈ Instr.needs .dese2, (small 0x06#8 0x11#8).valid k = false) ∧
    (decode 0x21#8 = .command .dese1 ∧ ∀ k ∈ Instr.needs .dese1, (small 0x06#8 0x11#8).valid k = true) ∧
    decode 0x10#8 = .command .kgena ∧ ∀ k ∈ Instr.needs .kgena, (small 0x06#8 0x11#8).valid k = true := by
  refine ⟨by decide, by decide, by decide, ⟨by decide, by decide, .k2, by decide, by decide⟩, by decide, by decide, by decide⟩

/-- KgenaGeneratesAllBanks: idle, and busy. -/
theorem witness_KgenaGeneratesAllBanks : (small 0x1E#8 0x10#8).status.busy = false ∧ (small 0x01#8 0x10#8).status.busy = true := by
  decide

/-- KgenaIsThreeSingleGenerations: idle. -/
theorem witness_KgenaIsThreeSingleGenerations : (small 0x00#8 0x00#8).status.busy = false := by decide

/-- KgenkGeneratesOneBank: idle, and busy. -/
theorem witness_KgenkGeneratesOneBank : (small 0x1E#8 0x10#8).status.busy = false ∧ (small 0x00#8 0x00#8).status.busy = false ∧
    (small 0x01#8 0x11#8).status.busy = true := by decide

/-- DesdkDecryptsDinToDout: as for `DESEk`. -/
theorem witness_DesdkDecryptsDinToDout : ∀ k : Slot,
    ((small 0x1E#8 0x10#8).status.busy = false ∧ (small 0x1E#8 0x10#8).valid k = true) ∧
    (small 0x1D#8 0x31#8).status.busy = true ∧
    (small 0x00#8 0x00#8).status.busy = false ∧ (small 0x00#8 0x00#8).valid k = false := by
  intro k
  cases k <;> decide

/-- DesekEncryptsDinToDout: for each slot, idle with the bank valid, busy, and idle with the bank
not valid. -/
theorem witness_DesekEncryptsDinToDout : ∀ k : Slot,
    ((small 0x1E#8 0x10#8).status.busy = false ∧ (small 0x1E#8 0x10#8).valid k = true) ∧
    (small 0x1D#8 0x40#8).status.busy = true ∧
    (small 0x00#8 0x00#8).status.busy = false ∧ (small 0x00#8 0x00#8).valid k = false := by
  intro k
  cases k <;> decide

/-- CommandsTouchOnlyTheirRegisters: a key-schedule command with any offset, a cipher command with an offset on either side
of `DOUT`. -/
theorem witness_CommandsTouchOnlyTheirRegisters :
    (Instr.isOperation .kgen1 = true ∧ (small 0x00#8 0x00#8).status.busy = false ∧
      (∀ k ∈ Instr.needs .kgen1, (small 0x00#8 0x00#8).valid k = true) ∧ Instr.needs .kgen1 = []) ∧
    (Instr.isOperation .tdese = true ∧ (small 0x1E#8 0x10#8).status.busy = false ∧
      ∀ k ∈ Instr.needs .tdese, (small 0x1E#8 0x10#8).valid k = true) ∧
    ((0x1F#6 : Offset) ≠ 0x28#6 ∧ (0x1F#6 : Offset) ≠ 0x29#6 ∧ (0x1F#6 : Offset) < 0x20#6) ∧
    (0x3F#6 : Offset) ≠ 0x28#6 ∧ (0x3F#6 : Offset) ≠ 0x29#6 ∧ (0x27#6 : Offset) < 0x3F#6 := by decide

/-- MemReadMap: nothing pending, and a key-schedule command pending; the first and the last reserved offset. -/
theorem witness_MemReadMap : (small 0x1E#8 0x40#8).status.busy = false ∧
    ((small 0x01#8 0x11#8).status.busy = true ∧ isCipherByte (small 0x01#8 0x11#8).cmd = false) ∧
    (0x2A#6 : Offset) ≤ 0x2A#6 ∧ (0x2A#6 : Offset) ≤ 0x3F#6 := by decide

/-- ReservedAndReadOnlyOffsets: the ends of the ranges; no offset falls under two clauses. -/
theorem witness_ReservedAndReadOnlyOffsets : (0x2A#6 : Offset) ≤ 0x2A#6 ∧ (0x2A#6 : Offset) ≤ 0x3F#6 ∧
    ((0x20#6 : Offset) ≤ 0x20#6 ∧ (0x20#6 : Offset) ≤ 0x27#6) ∧ ((0x20#6 : Offset) ≤ 0x27#6 ∧ (0x27#6 : Offset) ≤ 0x27#6) ∧
    ¬ (0x2A#6 : Offset) ≤ 0x29#6 := by decide

/-- DataWriteStoresOneByte: idle, and the ends of the range. -/
theorem witness_DataWriteStoresOneByte : (small 0x1E#8 0x40#8).status.busy = false ∧ (0x00#6 : Offset) ≤ 0x1F#6 ∧
    (0x1F#6 : Offset) ≤ 0x1F#6 := by decide

/-- MemWriteMap: the ends of the ranges of offsets, idle and busy; no offset falls under two clauses. -/
theorem witness_MemWriteMap : (small 0x1E#8 0x40#8).status.busy = false ∧ (small 0x1D#8 0x40#8).status.busy = true ∧
    (0x1F#6 : Offset) ≤ 0x1F#6 ∧ (0x20#6 : Offset) ≤ 0x20#6 ∧ (0x20#6 : Offset) ≤ 0x29#6 ∧ (0x29#6 : Offset) ≠ 0x28#6 ∧
    (0x20#6 : Offset) ≤ 0x27#6 ∧ (0x2A#6 : Offset) ≤ 0x3F#6 ∧ ¬ (0x2A#6 : Offset) ≤ 0x29#6 := by decide

/-- BlocksAreBigEndian: no cipher command pending. -/
theorem witness_BlocksAreBigEndian : (small 0x1E#8 0x40#8).cipherPending = false ∧ 7 < 8 := by decide

/-- BusyWindowRefusesWrites: a data register and `CMD` in the busy window, the byte legal and illegal. -/
theorem witness_BusyWindowRefusesWrites : (small 0x1D#8 0x40#8).status.busy = true ∧ (0x1F#6 : Offset) ≤ 0x1F#6 ∧
    (0x01#8 : Byte) ≠ 0x02#8 ∧ (0xFF#8 : Byte) ≠ 0x02#8 := by decide

/-- StepRunsTheIssuedCommand: a command and an illegal byte waiting at the port. -/
theorem witness_StepRunsTheIssuedCommand :
    ((waiting 0x06#8 0x11#8 (.host (.write 0x28#6 0x21#8))).turns = .host (.write 0x28#6 0x21#8) :: [] ∧
      decode 0x21#8 = .command .dese1) ∧
    (waiting 0x06#8 0x11#8 (.host (.write 0x28#6 0x24#8))).turns = .host (.write 0x28#6 0x24#8) :: [] ∧
      decode 0x24#8 = .illegal := ⟨⟨rfl, by decide⟩, rfl, by decide⟩

/-- StepTakesTheNextTurn: each kind of turn, busy and idle. -/
theorem witness_StepTakesTheNextTurn :
    (waiting 0x06#8 0x11#8 (.host .reset)).turns = .host .reset :: [] ∧
    ((waiting 0x1D#8 0x40#8 .engine).turns = .engine :: [] ∧ (waiting 0x1D#8 0x40#8 .engine).status.busy = true) ∧
    ((waiting 0x1E#8 0x40#8 .engine).turns = .engine :: [] ∧ (waiting 0x1E#8 0x40#8 .engine).status.busy = false) ∧
    ((small 0x1D#8 0x40#8).turns = [] ∧ (small 0x1D#8 0x40#8).status.busy = true) ∧
    (small 0x1E#8 0x40#8).turns = [] ∧ (small 0x1E#8 0x40#8).status.busy = false := by decide

/-- EngineStepFrame: nothing pending, a cipher command pending, a key-schedule command pending that leaves a bank alone. -/
theorem witness_EngineStepFrame : (small 0x1E#8 0x40#8).status.busy = false ∧
    ((small 0x1D#8 0x40#8).status.busy = true ∧ isCipherByte (small 0x1D#8 0x40#8).cmd = true ∧
      ∃ t, engineTurn (small 0x1D#8 0x40#8) = .next t) ∧
    (small 0x01#8 0x11#8).status.busy = true ∧ isCipherByte (small 0x01#8 0x11#8).cmd = false ∧
      (decode (small 0x01#8 0x11#8).cmd = .command .kgen1 ∧ Slot.k2 ∉ Instr.generates .kgen1) ∧
      ∃ t, engineTurn (small 0x01#8 0x11#8) = .next t :=
  ⟨by decide, ⟨by decide, by decide, _, rfl⟩, by decide, by decide, by decide, _, rfl⟩

/-- The protocol invariant holds while `TDESE` is pending with all banks valid, whatever waits at the port and whatever the
banks hold. -/
theorem protocolInv_of_tdese_pending (s : State) (hs : s.status = statusOf 0x1D#8) (hc : s.cmd = 0x40#8) : ProtocolInv s where
  exclusive := by rw [hs]; decide
  fresh := fun h => by rw [hs] at h; exact absurd h (by decide)
  holdsOperation := fun _ => ⟨.tdese, by rw [hc]; decide, rfl⟩
  pendingBanks := fun _ i hi => by
    rw [hc] at hi
    obtain rfl : Instr.tdese = i := Decoded.command.inj hi
    exact ⟨fun k _ => by rw [State.valid, hs]; cases k <;> rfl, fun k hk => absurd hk List.not_mem_nil⟩

/-- ProtocolStepsGoOn: a busy state of the protocol. -/
theorem witness_ProtocolStepsGoOn : ProtocolInv (small 0x1D#8 0x40#8) := protocolInv_of_tdese_pending _ rfl rfl

/-- EveryStepKeepsTheProtocol: a busy state of the protocol and the step from it. -/
theorem witness_EveryStepKeepsTheProtocol :
    ProtocolInv (waiting 0x1D#8 0x40#8 .engine) ∧ ∃ t, step (waiting 0x1D#8 0x40#8 .engine) = .next t :=
  ⟨protocolInv_of_tdese_pending _ rfl rfl, _, rfl⟩

/-- EveryStepKeepsValidBanksGenerated: all banks valid, holding the schedule of the zero key. -/
theorem witness_EveryStepKeepsValidBanksGenerated :
    ValidBanksGenerated (small 0x1E#8 0x10#8) ∧ (∀ k, (small 0x1E#8 0x10#8).valid k = true) ∧
    ∃ t, step (small 0x1E#8 0x10#8) = .next t := by
  have zero : Vector.replicate 16 0#48 = keysched 0#64 := by decide +kernel
  exact ⟨fun k _ => ⟨0#64, by cases k <;> exact zero⟩, fun k => by cases k <;> rfl, _, rfl⟩

/-- OperandsStableInBusyWindow: a refused write in the busy window. -/
theorem witness_OperandsStableInBusyWindow :
    ∃ t, step (waiting 0x1D#8 0x40#8 (.host (.write 0x18#6 0xAA#8))) = .next t ∧
      (waiting 0x1D#8 0x40#8 (.host (.write 0x18#6 0xAA#8))).status.busy = true ∧ t.status.busy = true :=
  ⟨_, rfl, by decide, by decide⟩

/-- ValidBankLifetime: in a state of the protocol a bank that stays valid (a read), and one that does not (`SRST`). -/
theorem witness_ValidBankLifetime :
    (∃ t, step (waiting 0x1D#8 0x40#8 (.host (.read 0x29#6))) = .next t ∧ t.valid .k1 = true) ∧
    (∃ t, step (waiting 0x1D#8 0x40#8 (.host (.write 0x28#6 0x02#8))) = .next t ∧ t.valid .k1 = false) ∧
    ∀ u, ProtocolInv (waiting 0x1D#8 0x40#8 u) ∧ (waiting 0x1D#8 0x40#8 u).valid .k1 = true :=
  ⟨⟨_, rfl, by decide⟩, ⟨_, rfl, by decide⟩, fun _ => ⟨protocolInv_of_tdese_pending _ rfl rfl, rfl⟩⟩

/-- DoutWrittenOnlyByCipherOrReset: `DOUT` changes by a reset, and by a completion. -/
theorem witness_DoutWrittenOnlyByCipherOrReset :
    (∃ t, step (waiting 0x1E#8 0x40#8 (.host .reset)) = .next t ∧ t.dout ≠ (waiting 0x1E#8 0x40#8 (.host .reset)).dout) ∧
    ∃ t, step (small 0x1D#8 0x40#8) = .next t ∧ t.dout ≠ (small 0x1D#8 0x40#8).dout :=
  ⟨⟨_, rfl, by decide⟩, _, rfl, by decide +kernel⟩

/-- ErrIsStickyAndPrecise: `ERR` kept by a refusal, cleared by `CLRE`, and set from 0. -/
theorem witness_ErrIsStickyAndPrecise :
    (∃ t, step (waiting 0x40#8 0x00#8 (.host (.write 0x28#6 0x24#8))) = .next t ∧ t.status.err = .noKey) ∧
    (∃ t, step (waiting 0x40#8 0x00#8 (.host (.write 0x28#6 0x01#8))) = .next t ∧ t.status.err = .none) ∧
    (∃ t, step (waiting 0x00#8 0x00#8 (.host (.write 0x28#6 0x24#8))) = .next t ∧ t.status.err ≠ .none) ∧
    (small 0x40#8 0x00#8).status.err ≠ .none ∧ (small 0x00#8 0x00#8).status.err = .none :=
  ⟨⟨_, rfl, by decide⟩, ⟨_, rfl, by decide⟩, ⟨_, rfl, by decide⟩, by decide, by decide⟩

/-- InvalidBanksAreUnobservable: a state with no bank valid and the same with another content of bank 1, and one step. -/
theorem witness_InvalidBanksAreUnobservable :
    ProtocolInv (small 0x00#8 0x00#8) ∧
    SameButInvalidBanks (small 0x00#8 0x00#8) ((small 0x00#8 0x00#8).setBank .k1 (Vector.replicate 16 1#48)) ∧
    (small 0x00#8 0x00#8).bank .k1 ≠ ((small 0x00#8 0x00#8).setBank .k1 (Vector.replicate 16 1#48)).bank .k1 ∧
    ∃ t, run 1 (small 0x00#8 0x00#8) = .next t := by
  refine ⟨⟨by decide, fun _ _ => ⟨rfl, fun k => by cases k <;> rfl⟩, fun h => absurd h (by decide),
      fun h => absurd h (by decide)⟩,
    ⟨rfl, rfl, rfl, rfl, rfl, rfl, rfl, rfl, fun k h => by cases k <;> exact absurd h (by decide)⟩, by decide, _, rfl⟩

/-- CipherResultDependsOnBlockAndBanksOnly: two idle states that agree in `DIN` and bank 1 and differ in `KEY`. -/
theorem witness_CipherResultDependsOnBlockAndBanksOnly :
    Instr.needs .dese1 ≠ [] ∧ (small 0x06#8 0x11#8).status.busy = false ∧
    (∀ k ∈ Instr.needs .dese1, (small 0x06#8 0x11#8).valid k = true ∧
      ((small 0x06#8 0x11#8).setKeyByte 0 0xAA#8).valid k = true ∧
      ((small 0x06#8 0x11#8).setKeyByte 0 0xAA#8).bank k = (small 0x06#8 0x11#8).bank k) ∧
    ((small 0x06#8 0x11#8).setKeyByte 0 0xAA#8).din = (small 0x06#8 0x11#8).din ∧
    ((small 0x06#8 0x11#8).setKeyByte 0 0xAA#8).key ≠ (small 0x06#8 0x11#8).key := by decide

/-- PendingOperationEventuallyCompletes: `TDESE` pending, a read and a refused write to come. -/
theorem witness_PendingOperationEventuallyCompletes :
    ((small 0x1D#8 0x40#8).setTurns [.host (.read 0x29#6), .host (.write 0x28#6 0x01#8)]).status.busy = true ∧
    decode ((small 0x1D#8 0x40#8).setTurns [.host (.read 0x29#6), .host (.write 0x28#6 0x01#8)]).cmd = .command .tdese ∧
    Instr.isOperation .tdese = true ∧
    ∀ u ∈ ((small 0x1D#8 0x40#8).setTurns [.host (.read 0x29#6), .host (.write 0x28#6 0x01#8)]).turns, u.resets = false := by
  decide

/-- PollingDoesNotChangeTheResult: `TDESE` pending in a state of the protocol. -/
theorem witness_PollingDoesNotChangeTheResult : ProtocolInv (small 0x1D#8 0x40#8) ∧ (small 0x1D#8 0x40#8).status.busy = true :=
  ⟨protocolInv_of_tdese_pending _ rfl rfl, by decide⟩

end Sys2Proof.Tests
end

section
/-! SUPPORT. The command life cycle, in the four ways that a turn can bear on it: every invariant of the command protocol
and of the banks is a case split over `Phase`, which is coarser than `Effect`. -/

namespace Sys2Proof.Machine

/-! ### The next turn -/

/-- A next turn that is not the engine's is the head of the waiting turns. -/
theorem State.turns_eq_of_nextTurn {s : State} {u : Turn} (h : s.nextTurn = u) (hu : u ≠ .engine) :
    s.turns = u :: s.turns.tail := by
  unfold State.nextTurn at h
  cases ht : s.turns with
  | nil => exact absurd (by simpa [ht] using h.symm) hu
  | cons v vs => simpa [ht] using h

theorem Turn.ne_engine_of_resets {u : Turn} (h : u.resets = true) : u ≠ .engine := by
  rintro rfl
  exact absurd h (by decide)

/-! ### The phases of a command -/

/-- The step has no part in the life of a command: `DOUT`, `CMD`, the banks and every bit of `STATUS` but `ERR` are kept,
and the operands `KEY` and `DIN` are kept in the busy window (spec/10_state.md R31). -/
structure KeepsCommand (s t : State) : Prop where
  dout : t.dout = s.dout
  ks : t.ks = s.ks
  cmd : t.cmd = s.cmd
  busy : t.status.busy = s.status.busy
  done : t.status.done = s.status.done
  kv : t.status.kv = s.status.kv
  operands : s.status.busy = true → t.key = s.key ∧ t.din = s.din

theorem KeepsCommand.refl (s : State) : KeepsCommand s s := ⟨rfl, rfl, rfl, rfl, rfl, rfl, fun _ => ⟨rfl, rfl⟩⟩

theorem State.popTurn_keepsCommand (s : State) : KeepsCommand s s.popTurn :=
  ⟨rfl, rfl, rfl, rfl, rfl, rfl, fun _ => ⟨rfl, rfl⟩⟩

theorem hostRead_keepsCommand (s : State) (a : Offset) : KeepsCommand s (hostRead a s) :=
  ⟨rfl, rfl, rfl, rfl, rfl, rfl, fun _ => ⟨rfl, rfl⟩⟩

theorem State.refuse_keepsCommand (s : State) (c : ErrCode) : KeepsCommand s (s.refuse c) :=
  ⟨rfl, rfl, rfl, s.status.recordErr_busy c, s.status.recordErr_done c, s.status.recordErr_kv c, fun _ => ⟨rfl, rfl⟩⟩

theorem State.clearErr_keepsCommand (s : State) : KeepsCommand s s.clearErr :=
  ⟨rfl, rfl, rfl, rfl, rfl, rfl, fun _ => ⟨rfl, rfl⟩⟩

theorem State.setKeyByte_keepsCommand {s : State} (hb : s.status.busy = false) (i : Nat) (v : Byte) :
    KeepsCommand s (s.setKeyByte i v) :=
  ⟨rfl, rfl, rfl, rfl, rfl, rfl, fun h => absurd h (by simp [hb])⟩

theorem State.setDinByte_keepsCommand {s : State} (hb : s.status.busy = false) (i : Nat) (v : Byte) :
    KeepsCommand s (s.setDinByte i v) :=
  ⟨rfl, rfl, rfl, rfl, rfl, rfl, fun h => absurd h (by simp [hb])⟩

/-- What the turn `u`, taken in the state `s`, means for the life cycle of spec/70_reset_and_hazards.md R233. -/
inductive Phase (s : State) (u : Turn) : State → Prop where
  /-- a read, a refused write, a write to `KEY` or `DIN`, `CLRE`, or a turn with no effect -/
  | kept {t : State} : KeepsCommand s t → Phase s u t
  /-- reset or `SRST` -/
  | reset : u.resets = true → Phase s u s.resetCore
  /-- an operation command is accepted -/
  | accepted (i : Instr) : i.isOperation = true → s.status.busy = false → (∀ k ∈ i.needs, s.valid k = true) →
      u = .host (.write Config.cmdOffset (encode i)) → Phase s u (s.accepted i)
  /-- the pending operation command completes -/
  | completed (i : Instr) : i.isOperation = true → decode s.cmd = .command i → s.status.busy = true →
      Phase s u (s.completed i)

theorem Effect.phase {s t : State} {u : Turn} (h : Effect s u t) : Phase s u t := by
  cases h with
  | read a => exact .kept (hostRead_keepsCommand s a)
  | refusedBusy => exact .kept (s.refuse_keepsCommand _)
  | refusedIllegal => exact .kept (s.refuse_keepsCommand _)
  | refusedNoKey => exact .kept (s.refuse_keepsCommand _)
  | ignored => exact .kept (.refl s)
  | keyWritten a v hb => exact .kept (State.setKeyByte_keepsCommand hb _ v)
  | dinWritten a v hb => exact .kept (State.setDinByte_keepsCommand hb _ v)
  | errorCleared => exact .kept s.clearErr_keepsCommand
  | reset _ hr => exact .reset hr
  | accepted i ho hb hv => exact .accepted i ho hb hv rfl
  | completed i ho hd hb => exact .completed i ho hd hb
  | idle => exact .kept (.refl s)

theorem step_phase {s t : State} (h : step s = .next t) : Phase s.popTurn s.nextTurn t := (step_effect s t h).phase

end Sys2Proof.Machine
end

section
/-! SUPPORT. The protocol of `STATUS` and `CMD`, and the schedules of the valid banks, as invariants. -/

namespace Sys2Proof.Machine

@[simp] theorem State.valid_resetCore (s : State) (k : Slot) : s.resetCore.valid k = false := by cases k <;> rfl

@[simp] theorem decode_encode (i : Instr) : decode (encode i) = .command i := by cases i <;> rfl

/-! ### The protocol of `STATUS` and `CMD` -/

theorem ProtocolInv.of_keepsCommand {s t : State} (h : ProtocolInv s) (k : KeepsCommand s t) : ProtocolInv t where
  exclusive := by
    rw [k.busy, k.done]
    exact h.exclusive
  fresh := by
    simp only [k.busy, k.done, k.cmd, State.valid_congr k.kv]
    exact h.fresh
  holdsOperation := by
    rw [k.busy, k.done, k.cmd]
    exact h.holdsOperation
  pendingBanks := by
    simp only [k.busy, k.cmd, State.valid_congr k.kv]
    exact h.pendingBanks

/-- No command has been accepted, and no bank is valid. -/
theorem ProtocolInv.of_fresh {s : State} (hb : s.status.busy = false) (hd : s.status.done = false) (hc : s.cmd = 0x00#8)
    (hv : ∀ k, s.valid k = false) : ProtocolInv s where
  exclusive := by simp [hb]
  fresh := fun _ _ => ⟨hc, hv⟩
  holdsOperation := by simp [hb, hd]
  pendingBanks := by simp [hb]

theorem State.resetCore_protocolInv (s : State) : ProtocolInv s.resetCore := .of_fresh rfl rfl rfl s.valid_resetCore

/-- Acceptance meets the protocol: a command that needs banks generates none, so its banks stay valid. -/
theorem State.accepted_protocolInv {s : State} {i : Instr} (ho : i.isOperation = true)
    (hv : ∀ k ∈ i.needs, s.valid k = true) : ProtocolInv (s.accepted i) := by
  have f := s.accepted_spec i
  have hd : decode (s.accepted i).cmd = .command i := by rw [f.cmd, decode_encode]
  refine ⟨by simp [f.done], by simp [f.busy], fun _ => ⟨i, hd, ho⟩, fun _ j hj => ?_⟩
  obtain rfl : i = j := by simpa [hd] using hj
  refine ⟨fun k hk => ?_, fun k hk => by rw [f.valid k, if_pos hk]⟩
  have hg : i.generates = [] := by
    by_contra hg
    simp [Instr.needs_of_generates hg] at hk
  rw [f.valid k, hg, if_neg List.not_mem_nil, hv k hk]

theorem State.completed_protocolInv {s : State} {i : Instr} (ho : i.isOperation = true)
    (hd : decode s.cmd = .command i) : ProtocolInv (s.completed i) := by
  have f := s.completed_spec i
  exact ⟨by simp [f.busy], by simp [f.done], fun _ => ⟨i, by rw [f.cmd, hd], ho⟩, by simp [f.busy]⟩

theorem ProtocolInv.of_step {s t : State} (h : ProtocolInv s) (hs : step s = .next t) : ProtocolInv t := by
  cases step_phase hs with
  | kept k => exact (h.of_keepsCommand s.popTurn_keepsCommand).of_keepsCommand k
  | reset => exact State.resetCore_protocolInv _
  | accepted i ho _ hv => exact State.accepted_protocolInv ho hv
  | completed i ho hd => exact State.completed_protocolInv ho hd

/-- Settles O50: each phase of a command keeps the protocol. -/
theorem everyStepKeepsTheProtocol : Obligations.EveryStepKeepsTheProtocol := fun _ _ h hs => h.of_step hs

/-! ### The schedules of the valid banks -/

theorem ValidBanksGenerated.of_keepsCommand {s t : State} (h : ValidBanksGenerated s) (k : KeepsCommand s t) :
    ValidBanksGenerated t := fun j hj => by
  rw [State.bank_congr k.ks]
  exact h j (State.valid_congr k.kv j ▸ hj)

theorem ValidBanksGenerated.accepted {s : State} (h : ValidBanksGenerated s) (i : Instr) :
    ValidBanksGenerated (s.accepted i) := fun k hk => by
  have f := s.accepted_spec i
  rw [f.valid k] at hk
  split at hk
  case isTrue => exact absurd hk (by decide)
  case isFalse hg =>
    rw [f.bank k hg]
    exact h k hk

theorem ValidBanksGenerated.completed {s : State} (h : ValidBanksGenerated s) (i : Instr) :
    ValidBanksGenerated (s.completed i) := fun k hk => by
  have f := s.completed_spec i
  rw [f.valid k] at hk
  rw [f.bank k]
  split at hk
  case isTrue hg => exact ⟨s.keyBlock k, if_pos hg⟩
  case isFalse hg =>
    rw [if_neg hg]
    exact h k hk

theorem ValidBanksGenerated.of_step {s t : State} (h : ValidBanksGenerated s) (hs : step s = .next t) :
    ValidBanksGenerated t := by
  have hp : ValidBanksGenerated s.popTurn := h.of_keepsCommand s.popTurn_keepsCommand
  cases step_phase hs with
  | kept k => exact hp.of_keepsCommand k
  | reset => exact fun k hk => absurd hk (by simp)
  | accepted i => exact hp.accepted i
  | completed i => exact hp.completed i

/-- Settles O51: a bank becomes valid only at the completion that writes `keysched` of its key to it. -/
theorem everyStepKeepsValidBanksGenerated : Obligations.EveryStepKeepsValidBanksGenerated :=
  fun _ _ h hs => h.of_step hs

/-- Settles O49: after reset no command has been accepted and no bank is valid. -/
theorem invariantsHoldAfterReset : Obligations.InvariantsHoldAfterReset := by
  have hv : ∀ k, State.reset.valid k = false := fun k => by cases k <;> rfl
  exact ⟨.of_fresh rfl rfl rfl hv, fun k hk => absurd hk (by simp [hv k])⟩

end Sys2Proof.Machine
end

section
/-! SUPPORT. `Effect` is all of a turn: the converse of `turnStep_effect`. -/

namespace Sys2Proof.Machine

theorem Turn.eq_of_resets {u : Turn} (h : u.resets = true) :
    u = .host .reset ∨ u = .host (.write Config.cmdOffset (encode .srst)) := by
  match u with
  | .engine => exact absurd h Bool.false_ne_true
  | .host (.read _) => exact absurd h Bool.false_ne_true
  | .host .reset => exact .inl rfl
  | .host (.write a v) =>
    obtain ⟨rfl, rfl⟩ : a = Config.cmdOffset ∧ v = 0x02#8 := by simpa [Turn.resets, HostOp.resets] using h
    exact .inr rfl

/-- A write of a command's byte to `CMD` issues the command. -/
theorem turnStep_write_encode (i : Instr) (s : State) :
    turnStep (.host (.write Config.cmdOffset (encode i))) s = exec i s := by
  simp [turnStep, hostStep, memWrite, issue]

theorem turnStep_write_illegal {v : Byte} (hd : decode v = .illegal) (s : State) :
    turnStep (.host (.write Config.cmdOffset v)) s = .next (s.refuse (if s.status.busy then .busy else .illegal)) := by
  simp [turnStep, hostStep, memWrite, issue, hd]

theorem turnStep_write_data {a : Offset} (ha : a ≠ Config.cmdOffset) (v : Byte) (s : State) :
    turnStep (.host (.write a v)) s = .next (dataWrite a v s) := by
  simp [turnStep, hostStep, memWrite, ha]

theorem Offset.ne_cmdOffset_of_le {a : Offset} (h : a.toNat ≤ 0x1F) : a ≠ Config.cmdOffset := by
  rintro rfl
  exact absurd h (by decide)

/-- In the busy window every write to `KEY` or `DIN` and every write to `CMD` but `SRST` is refused. -/
theorem turnStep_write_busy {s : State} {a : Offset} {v : Byte} (hb : s.status.busy = true)
    (h : a.toNat ≤ 0x1F ∨ a = Config.cmdOffset ∧ v ≠ 0x02#8) :
    turnStep (.host (.write a v)) s = .next (s.refuse .busy) := by
  obtain hle | ⟨rfl, hv⟩ := h
  · rw [turnStep_write_data (Offset.ne_cmdOffset_of_le hle), dataWrite, if_pos hle, if_pos hb]
  · cases hd : decode v with
    | illegal => rw [turnStep_write_illegal hd, if_pos hb]
    | command i =>
      obtain rfl := encode_of_decode v i hd
      rw [turnStep_write_encode, exec_busy (by rintro rfl; exact hv rfl) hb]

/-- What `Effect` allows is what the turn does. -/
theorem turnStep_of_effect {s t : State} {u : Turn} (h : Effect s u t) : turnStep u s = .next t := by
  cases h with
  | read => rfl
  | refusedBusy a v hb hw => exact turnStep_write_busy hb hw
  | refusedIllegal v hb hd => simp [turnStep_write_illegal hd, hb]
  | refusedNoKey i k ho hb hk hv => rw [turnStep_write_encode, exec_noKey ho hb hk hv]
  | ignored a v hlt ha => rw [turnStep_write_data ha, dataWrite, if_neg (by omega)]
  | keyWritten a v hb hle =>
    rw [turnStep_write_data (Offset.ne_cmdOffset_of_le (by omega)), dataWrite, if_pos (by omega), if_neg (by simp [hb]),
      if_pos hle]
  | dinWritten a v hb hlt hle =>
    rw [turnStep_write_data (Offset.ne_cmdOffset_of_le hle), dataWrite, if_pos hle, if_neg (by simp [hb]),
      if_neg (by omega)]
  | errorCleared hb =>
    rw [show (0x01#8 : Byte) = encode .clre from rfl, turnStep_write_encode, exec, execClre, if_neg (by simp [hb])]
  | reset _ hr =>
    obtain rfl | rfl := Turn.eq_of_resets hr
    · rfl
    · exact turnStep_write_encode .srst s
  | accepted i ho hb hv => rw [turnStep_write_encode, exec_accepted ho hb hv]
  | completed i ho hd hb => rw [turnStep, engineTurn, if_pos hb, complete_of_decode hd ho]
  | idle hb => rw [turnStep, engineTurn, if_neg (by simp [hb])]

end Sys2Proof.Machine
end

section
/-! SUPPORT. The content of a bank that is not valid never reaches the host: `SameButInvalidBanks` is a simulation. -/

namespace Sys2Proof.Machine

variable {s t : State}

/-- The result of a cipher command depends on the banks that it needs, and on no other. -/
theorem cipher_congr {i : Instr} {S T : TripleKeySet} (h : ∀ k ∈ i.needs, T.get k = S.get k)
    (B : Block) : i.cipher B T = i.cipher B S := by
  cases i <;> simp_all [Instr.needs, Instr.cipher, tdesEnc, tdesDec, PerSlot.get]

namespace SameButInvalidBanks

theorem valid_eq (h : SameButInvalidBanks s t) (k : Slot) : t.valid k = s.valid k :=
  State.valid_congr (congrArg Status.kv h.status) k

theorem cipherPending_eq (h : SameButInvalidBanks s t) : t.cipherPending = s.cipherPending := by
  rw [State.cipherPending, State.cipherPending, h.status, h.cmd]

theorem memRead_eq (h : SameButInvalidBanks s t) (a : Offset) : memRead t a = memRead s a :=
  memRead_congr a (fun _ => h.key) (fun _ _ => h.din) (fun _ _ => ⟨h.dout, .inr ⟨h.cipherPending_eq, h.draws⟩⟩)
    (fun _ => h.cmd) (fun _ => h.status)

/-! ### The operations that leave `KS` and `KV1..KV3` as they are -/

theorem setTurns (h : SameButInvalidBanks s t) (us : List Turn) : SameButInvalidBanks (s.setTurns us) (t.setTurns us) :=
  { h with turns := rfl }

theorem hostRead (h : SameButInvalidBanks s t) (a : Offset) :
    SameButInvalidBanks (Machine.hostRead a s) (Machine.hostRead a t) :=
  { h with
    reads := congrArg₂ List.cons (h.memRead_eq a) h.reads
    draws := congrArg (· + 1) h.draws }

theorem refuse (h : SameButInvalidBanks s t) (c : ErrCode) : SameButInvalidBanks (s.refuse c) (t.refuse c) :=
  { h with
    status := congrArg (·.recordErr c) h.status
    bank := fun k hk => h.bank k (State.valid_congr (s.refuse_keepsCommand c).kv k ▸ hk) }

theorem clearErr (h : SameButInvalidBanks s t) : SameButInvalidBanks s.clearErr t.clearErr :=
  { h with status := congrArg Status.clearErr h.status }

theorem setKeyByte (h : SameButInvalidBanks s t) (i : Nat) (v : Byte) :
    SameButInvalidBanks (s.setKeyByte i v) (t.setKeyByte i v) :=
  { h with key := congrArg (·.setIfInBounds i v) h.key }

theorem setDinByte (h : SameButInvalidBanks s t) (i : Nat) (v : Byte) :
    SameButInvalidBanks (s.setDinByte i v) (t.setDinByte i v) :=
  { h with din := congrArg (·.setIfInBounds i v) h.din }

/-! ### Reset, acceptance and completion -/

theorem resetCore (h : SameButInvalidBanks s t) : SameButInvalidBanks s.resetCore t.resetCore where
  key := rfl
  din := rfl
  dout := rfl
  cmd := rfl
  status := rfl
  turns := h.turns
  reads := h.reads
  draws := congrArg (· + 1) h.draws
  bank := fun k hk => absurd hk (by simp)

/-- A bank that is valid after the acceptance was valid before and is not generated. -/
theorem accepted (h : SameButInvalidBanks s t) (i : Instr) : SameButInvalidBanks (s.accepted i) (t.accepted i) := by
  have fs := s.accepted_spec i
  have ft := t.accepted_spec i
  exact {
    key := by rw [ft.key, fs.key, h.key]
    din := by rw [ft.din, fs.din, h.din]
    dout := by rw [ft.dout, fs.dout, h.dout]
    cmd := by rw [ft.cmd, fs.cmd]
    status := Status.ext_fields (by rw [ft.busy, fs.busy]) (by rw [ft.done, fs.done])
      (fun k => (ft.valid k).trans (by rw [h.valid_eq, ← fs.valid k]; rfl)) (by rw [ft.err, fs.err, h.status])
    turns := by rw [ft.turns, fs.turns, h.turns]
    reads := by rw [ft.reads, fs.reads, h.reads]
    draws := by
      unfold State.accepted
      split
      · exact h.draws
      · rw [State.accept_draws, State.accept_draws, (s.invalidate_spec _).draws, (t.invalidate_spec _).draws, h.draws]
    bank := fun k hk => by
      rw [fs.valid k] at hk
      split at hk
      case isTrue => exact absurd hk (by decide)
      case isFalse hg => rw [ft.bank k hg, fs.bank k hg, h.bank k hk] }

/-- Completion reads `KEY`, `DIN` and the banks that the command needs, which are valid (spec/70_reset_and_hazards.md
R241). -/
theorem completed (h : SameButInvalidBanks s t) {i : Instr} (hv : ∀ k ∈ i.needs, s.valid k = true) :
    SameButInvalidBanks (s.completed i) (t.completed i) := by
  have fs := s.completed_spec i
  have ft := t.completed_spec i
  have hc : i.cipher t.dinBlock t.ks = i.cipher s.dinBlock s.ks := by
    rw [State.dinBlock, h.din, ← State.dinBlock]
    exact cipher_congr (fun k hk => h.bank k (hv k hk)) _
  exact {
    key := by rw [ft.key, fs.key, h.key]
    din := by rw [ft.din, fs.din, h.din]
    dout := by rw [ft.dout, fs.dout, hc, h.dout]
    cmd := by rw [ft.cmd, fs.cmd, h.cmd]
    status := Status.ext_fields (by rw [ft.busy, fs.busy]) (by rw [ft.done, fs.done])
      (fun k => (ft.valid k).trans (by rw [h.valid_eq, ← fs.valid k]; rfl)) (by rw [ft.err, fs.err, h.status])
    turns := by rw [ft.turns, fs.turns, h.turns]
    reads := by rw [ft.reads, fs.reads, h.reads]
    draws := by rw [ft.draws, fs.draws, h.draws]
    bank := fun k hk => by
      rw [fs.valid k] at hk
      rw [ft.bank k, fs.bank k, State.keyBlock_congr h.key]
      split at hk
      case isTrue hg => rw [if_pos hg, if_pos hg]
      case isFalse hg => rw [if_neg hg, if_neg hg, h.bank k hk] }

/-! ### One turn, one step, every run -/

/-- What a turn does in one of the two states, the same turn does in the other. -/
theorem exists_effect {s' : State} {u : Turn} (h : SameButInvalidBanks s t) (hp : ProtocolInv s) (he : Effect s u s') :
    ∃ t', Effect t u t' ∧ SameButInvalidBanks s' t' := by
  have hst : t.status = s.status := h.status
  cases he with
  | read a => exact ⟨_, .read a, h.hostRead a⟩
  | refusedBusy a v hb hw => exact ⟨_, .refusedBusy a v (hst ▸ hb) hw, h.refuse _⟩
  | refusedIllegal v hb hd => exact ⟨_, .refusedIllegal v (hst ▸ hb) hd, h.refuse _⟩
  | refusedNoKey i k ho hb hk hv => exact ⟨_, .refusedNoKey i k ho (hst ▸ hb) hk (h.valid_eq k ▸ hv), h.refuse _⟩
  | ignored a v hlt ha => exact ⟨_, .ignored a v hlt ha, h⟩
  | keyWritten a v hb hle => exact ⟨_, .keyWritten a v (hst ▸ hb) hle, h.setKeyByte _ v⟩
  | dinWritten a v hb hlt hle => exact ⟨_, .dinWritten a v (hst ▸ hb) hlt hle, h.setDinByte _ v⟩
  | errorCleared hb => exact ⟨_, .errorCleared (hst ▸ hb), h.clearErr⟩
  | reset _ hr => exact ⟨_, .reset u hr, h.resetCore⟩
  | accepted i ho hb hv => exact ⟨_, .accepted i ho (hst ▸ hb) fun k hk => h.valid_eq k ▸ hv k hk, h.accepted i⟩
  | completed i ho hd hb =>
    exact ⟨_, .completed i ho (h.cmd ▸ hd) (hst ▸ hb), h.completed (hp.pendingBanks hb i hd).1⟩
  | idle hb => exact ⟨_, .idle (hst ▸ hb), h⟩

theorem popTurn (h : SameButInvalidBanks s t) : SameButInvalidBanks s.popTurn t.popTurn := by
  rw [State.popTurn, State.popTurn, h.turns]
  exact h.setTurns _

theorem exists_step {s' : State} (h : SameButInvalidBanks s t) (hp : ProtocolInv s) (hs : step s = .next s') :
    ∃ t', step t = .next t' ∧ SameButInvalidBanks s' t' := by
  obtain ⟨t', he, h'⟩ := h.popTurn.exists_effect (hp.of_keepsCommand s.popTurn_keepsCommand) (step_effect s s' hs)
  refine ⟨t', ?_, h'⟩
  rw [step_eq, State.nextTurn, h.turns]
  exact turnStep_of_effect he

theorem exists_run {s' : State} (n : Nat) (h : SameButInvalidBanks s t) (hp : ProtocolInv s)
    (hr : run n s = .next s') : ∃ t', run n t = .next t' ∧ SameButInvalidBanks s' t' := by
  induction n generalizing s t with
  | zero =>
    obtain rfl : s = s' := by simpa using hr
    exact ⟨t, rfl, h⟩
  | succ n ih =>
    obtain ⟨s1, hs, hr1⟩ := exists_step_of_run_succ hr
    obtain ⟨t1, ht, h1⟩ := h.exists_step hp hs
    rw [run_succ_of_step n ht]
    exact ih h1 (hp.of_step hs) hr1

end SameButInvalidBanks

/-- Settles O57: `SameButInvalidBanks` is a simulation between states of the protocol. -/
theorem invalidBanksAreUnobservable : Obligations.InvalidBanksAreUnobservable :=
  fun n _ _ _ hp h hr => h.exists_run n hp hr

end Sys2Proof.Machine
end

section
/-! SUPPORT. What the turn of the engine and the phases of a command keep. -/

namespace Sys2Proof.Machine

/-! ### Cipher commands and key commands, by their byte -/

/-- A cipher command's byte is that of a command that generates no bank. -/
theorem generates_of_isCipherByte {i : Instr} : isCipherByte (encode i) = true → i.generates = [] := by
  cases i <;> decide

/-- The cipher commands are those that have a block for `DOUT`. -/
theorem isSome_cipher (i : Instr) (B : Block) (S : TripleKeySet) : (i.cipher B S).isSome = isCipherByte (encode i) := by
  cases i <;> rfl

theorem State.completed_dout_of_not_cipher {s : State} {i : Instr} (hd : decode s.cmd = .command i)
    (hc : isCipherByte s.cmd = false) : (s.completed i).dout = s.dout := by
  rw [← encode_of_decode _ i hd] at hc
  have hn : i.cipher s.dinBlock s.ks = none := by simpa [hc] using isSome_cipher i s.dinBlock s.ks
  rw [(s.completed_spec i).dout, hn]
  rfl

theorem State.completed_of_not_generates {s : State} {i : Instr} {k : Slot} (hk : k ∉ i.generates) :
    (s.completed i).bank k = s.bank k ∧ (s.completed i).valid k = s.valid k :=
  ⟨((s.completed_spec i).bank k).trans (if_neg hk), ((s.completed_spec i).valid k).trans (if_neg hk)⟩

theorem State.accepted_of_not_generates {s : State} {i : Instr} {k : Slot} (hk : k ∉ i.generates) :
    (s.accepted i).bank k = s.bank k ∧ (s.accepted i).valid k = s.valid k :=
  ⟨(s.accepted_spec i).bank k hk, ((s.accepted_spec i).valid k).trans (if_neg hk)⟩

theorem State.completed_ks_kv_of_cipher {s : State} {i : Instr} (hd : decode s.cmd = .command i)
    (hc : isCipherByte s.cmd = true) : (s.completed i).ks = s.ks ∧ (s.completed i).status.kv = s.status.kv := by
  rw [← encode_of_decode _ i hd] at hc
  have hn : ∀ k, k ∉ i.generates := by simp [generates_of_isCipherByte hc]
  exact ⟨PerSlot.ext_get fun k => (State.completed_of_not_generates (hn k)).1,
    PerSlot.ext_get fun k => (State.completed_of_not_generates (hn k)).2⟩

/-! ### The turn of the engine -/

theorem engineTurn_idle {s : State} (hb : s.status.busy = false) : engineTurn s = .next s := by
  rw [engineTurn, if_neg (by simp [hb])]

theorem engineTurn_busy {s : State} (hb : s.status.busy = true) : engineTurn s = complete s := by
  rw [engineTurn, if_pos hb]

/-- A turn of the busy engine that goes on completes the operation command in `CMD`. -/
theorem engineTurn_completed {s t : State} (hb : s.status.busy = true) (h : engineTurn s = .next t) :
    ∃ i, decode s.cmd = .command i ∧ t = s.completed i := by
  cases engineTurn_effect s t h with
  | completed i _ hd => exact ⟨i, hd, rfl⟩
  | idle hi => exact absurd hb (by simp [hi])
  | reset _ hr => exact absurd rfl (Turn.ne_engine_of_resets hr)

/-- Settles O48: completion is the only turn of the engine that changes anything. -/
theorem engineStepFrame : Obligations.EngineStepFrame := by
  refine fun s => ⟨engineTurn_idle, fun t hb h => ?_⟩
  obtain ⟨i, hd, rfl⟩ := engineTurn_completed hb h
  have f := s.completed_spec i
  refine ⟨f.busy, f.done, f.key, f.din, f.cmd, f.err, fun j hj k hk => ?_, State.completed_ks_kv_of_cipher hd,
    State.completed_dout_of_not_cipher hd⟩
  obtain rfl : i = j := by simpa [hd] using hj
  exact State.completed_of_not_generates hk

/-! ### The busy window, the valid banks and `DOUT` -/

/-- Settles O53: between acceptance and completion every turn is of the phase `kept`. -/
theorem operandsStableInBusyWindow : Obligations.OperandsStableInBusyWindow := by
  intro s t hs hb ht
  cases step_phase hs with
  | kept k =>
    obtain ⟨hkey, hdin⟩ := k.operands hb
    exact ⟨hkey, hdin, k.dout, k.ks, k.cmd, k.done, k.kv⟩
  | reset => exact absurd ht Bool.false_ne_true
  | accepted i _ hi => exact absurd hb (ne_true_of_eq_false hi)
  | completed i => exact absurd ht (ne_true_of_eq_false (State.completed_spec _ i).busy)

/-- Settles O54: of the phases of a command only reset and the acceptance of a key command take a bank's flag away, and
the protocol shuts out the completion of a command that generates a valid bank. -/
theorem validBankLifetime : Obligations.ValidBankLifetime := by
  intro s t k hp hs hv
  have kept (h : t.bank k = s.bank k ∧ t.valid k = s.valid k) (P : Prop) :
      (t.valid k = true → t.bank k = s.bank k) ∧ (t.valid k = false → P) :=
    ⟨fun _ => h.1, fun ht => absurd (h.2.symm.trans ht) (ne_false_of_eq_true hv)⟩
  have lost {P : Prop} (h : t.valid k = false) (hP : P) :
      (t.valid k = true → t.bank k = s.bank k) ∧ (t.valid k = false → P) :=
    ⟨fun ht => absurd ht (ne_true_of_eq_false h), fun _ => hP⟩
  generalize hn : s.nextTurn = u
  cases hn ▸ step_phase hs with
  | kept h => exact kept ⟨State.bank_congr h.ks k, State.valid_congr h.kv k⟩ _
  | reset hr =>
    exact lost (State.valid_resetCore _ k) ⟨u, _, State.turns_eq_of_nextTurn hn (Turn.ne_engine_of_resets hr), .inl hr⟩
  | accepted i _ hb _ hu =>
    by_cases hk : k ∈ i.generates
    · exact lost (((s.popTurn.accepted_spec i).valid k).trans (if_pos hk))
        ⟨u, _, State.turns_eq_of_nextTurn hn (by simp [hu]), .inr ⟨hb, i, hk, hu⟩⟩
    · exact kept (State.accepted_of_not_generates hk) _
  | completed i _ hd hb =>
    obtain ⟨-, hinvalid⟩ := hp.pendingBanks hb i hd
    have hk : k ∉ i.generates := fun hk => absurd hv (ne_true_of_eq_false (hinvalid k hk))
    exact kept (State.completed_of_not_generates hk) _

/-- Settles O55: `DOUT` changes in the phase `reset` and at the completion of a cipher command. -/
theorem doutWrittenOnlyByCipherOrReset : Obligations.DoutWrittenOnlyByCipherOrReset := by
  intro s t hs hne
  cases step_phase hs with
  | kept k => exact absurd k.dout hne
  | reset hr => exact .inl ⟨_, _, State.turns_eq_of_nextTurn rfl (Turn.ne_engine_of_resets hr), hr⟩
  | accepted i => exact absurd (State.accepted_spec _ i).dout hne
  | completed i _ hd hb =>
    have f := s.popTurn.completed_spec i
    refine .inr ⟨hb, ?_, f.busy, f.done⟩
    by_contra hc
    exact hne (State.completed_dout_of_not_cipher hd (Bool.eq_false_of_not_eq_true hc))

/-! ### `ERR` -/

/-- What the turn `u`, taken in the state `s`, does to `ERR`. -/
inductive ErrEffect (s : State) (u : Turn) : State → Prop where
  | kept {t : State} : t.status.err = s.status.err → ErrEffect s u t
  | cleared {t : State} : t.status.err = .none →
      (u.resets = true ∨ s.status.busy = false ∧ u = .host (.write Config.cmdOffset 0x01#8)) → ErrEffect s u t
  | refused (a : Offset) (v : Byte) (c : ErrCode) : u = .host (.write a v) → ErrEffect s u (s.refuse c)

theorem Effect.errEffect {s t : State} {u : Turn} (h : Effect s u t) : ErrEffect s u t := by
  cases h with
  | read => exact .kept rfl
  | refusedBusy => exact .refused _ _ _ rfl
  | refusedIllegal => exact .refused _ _ _ rfl
  | refusedNoKey => exact .refused _ _ _ rfl
  | ignored => exact .kept rfl
  | keyWritten => exact .kept rfl
  | dinWritten => exact .kept rfl
  | errorCleared hb => exact .cleared rfl (.inr ⟨hb, rfl⟩)
  | reset _ hr => exact .cleared rfl (.inl hr)
  | accepted i => exact .kept (s.accepted_spec i).err
  | completed i => exact .kept (s.completed_spec i).err
  | idle => exact .kept rfl

/-- The first code recorded is kept (spec/60_exceptions.md R203). -/
theorem Status.recordErr_err_of_ne {st : Status} (h : st.err ≠ .none) (c : ErrCode) : (st.recordErr c).err = st.err := by
  rw [Status.recordErr_err, if_neg h]

theorem Status.recordErr_of_none {st : Status} (h : st.err = .none) (c : ErrCode) :
    st.recordErr c = { st with err := c } := by
  rw [Status.recordErr, if_pos h]

/-- Settles O56: a refusal is the only turn that sets `ERR`, and it records the first code only. -/
theorem errIsStickyAndPrecise : Obligations.ErrIsStickyAndPrecise := by
  intro s t hs
  generalize hn : s.nextTurn = u
  cases hn ▸ (step_effect s t hs).errEffect with
  | kept he => exact ⟨fun _ => .inl he, fun h0 h1 => absurd (he.trans h0) h1⟩
  | cleared he hc =>
    have hu : u ≠ .engine := by
      obtain hr | ⟨-, rfl⟩ := hc
      · exact Turn.ne_engine_of_resets hr
      · simp
    exact ⟨fun _ => .inr ⟨he, u, _, State.turns_eq_of_nextTurn hn hu, hc⟩, fun _ h1 => absurd he h1⟩
  | refused a v c hu =>
    subst hu
    refine ⟨fun h => .inl (Status.recordErr_err_of_ne h c), fun h0 _ =>
      ⟨a, v, _, State.turns_eq_of_nextTurn hn (by simp), ?_⟩⟩
    have hst : s.status.recordErr c = { s.status with err := c } := Status.recordErr_of_none h0 c
    simp [State.refuse, State.popTurn, State.setTurns, hst]

end Sys2Proof.Machine
end

section
/-! SUPPORT. The statements about one turn and one register. -/

namespace Sys2Proof.Machine

/-- Settles O47: the head of `turns` says which agent moves. -/
theorem stepTakesTheNextTurn : Obligations.StepTakesTheNextTurn := by
  refine fun s => ⟨fun op ts h => ?_, fun ts h => ⟨fun hb => ?_, fun hb => ?_⟩, fun h => ⟨fun hb => ?_, fun hb => ?_⟩⟩
  · rw [step, h]
    rfl
  · rw [step, h]
    exact engineTurn_busy (s := s.setTurns ts) hb
  · rw [step, h]
    exact engineTurn_idle (s := s.setTurns ts) hb
  · rw [step, h]
    exact engineTurn_busy hb
  · rw [step, h]
    exact engineTurn_idle hb

/-- Settles O46: the turn is the write of a command's byte, or of an illegal one, to `CMD`. -/
theorem stepRunsTheIssuedCommand : Obligations.StepRunsTheIssuedCommand := by
  refine ⟨fun s c i ts h hd => ?_, fun s c ts h hd => ?_⟩
  · obtain rfl := encode_of_decode c i hd
    rw [step, h]
    exact turnStep_write_encode i (s.setTurns ts)
  · rw [step, h]
    exact turnStep_write_illegal hd (s.setTurns ts)

/-- A register space whose registers are all zero reads as zero, whatever the banks hold. -/
theorem memRead_eq_zero {s : State} (key : s.key = Vector.replicate 24 0#8) (din : s.din = Vector.replicate 8 0#8)
    (dout : s.dout = Vector.replicate 8 0#8) (cmd : s.cmd = 0x00#8) (status : s.status = Status.atReset) (a : Offset) :
    memRead s a = 0x00#8 := by
  have hc : s.cipherPending = false := State.cipherPending_of_idle (by rw [status]; rfl)
  have hst : Status.atReset.byte = 0x00#8 := by decide
  simp [memRead, key, din, dout, cmd, status, hc, hst]

/-- Settles O26: the reset input and `SRST` are the same `resetCore`. -/
theorem resetAndSoftReset : Obligations.ResetAndSoftReset :=
  ⟨fun s => ⟨s.resetCore, rfl, rfl, rfl, rfl, rfl, rfl, rfl, (by decide : Status.atReset.byte = 0x00#8),
    memRead_eq_zero rfl rfl rfl rfl rfl, engineTurn_idle rfl⟩, rfl, rfl, rfl, rfl, rfl⟩

/-- `ERR` takes the codes 0 to 3 only (spec/10_state.md R29). -/
theorem ErrCode.code_lt (e : ErrCode) : e.code < 4#3 := by cases e <;> decide

/-- Bits 7:5 of `STATUS` are `ERR` (spec/10_state.md R27). -/
theorem Status.extractLsb'_byte (st : Status) : st.byte.extractLsb' 5 3 = st.err.code := by
  apply BitVec.eq_of_getLsbD_eq
  intro j hj
  simp [Status.byte]
  grind

/-- Settles O44: `STATUS` reads as `Status.byte`, whose bits are told apart one by one. -/
theorem statusByteLayout : Obligations.StatusByteLayout := by
  refine ⟨fun s => ?_, rfl, rfl, rfl, rfl⟩
  have he := s.status.extractLsb'_byte
  rw [memRead_status]
  refine ⟨?_, ?_, ?_, ?_, ?_, he, he ▸ s.status.err.code_lt⟩
  all_goals
    simp only [Status.byte, State.valid, PerSlot.get, BitVec.getLsbD_append]
    simp

end Sys2Proof.Machine
end

section
/-! SUPPORT. The register space written and read back by offset (spec/20_memory.md R51 to R57): what a write to `KEY` or
`DIN` stores, and what a read returns afterwards. -/

namespace Sys2Proof.Machine

/-! ### Reads -/

theorem memRead_of_key {a : Offset} (h : a.toNat ≤ 0x17) (s : State) : memRead s a = s.key[a.toNat] := dif_pos h

theorem memRead_of_din {a : Offset} (hlt : 0x17 < a.toNat) (hle : a.toNat ≤ 0x1F) (s : State) :
    memRead s a = s.din[a.toNat - 0x18] := by
  rw [memRead, dif_neg (by omega), dif_pos hle]

/-- Byte `i` of the key of slot `k` (R22, R57). -/
theorem memRead_keyBytes (s : State) (k : Slot) (i : Nat) (h : i < 8) :
    memRead s (BitVec.ofNat 6 (k.keyBase + i)) = (s.keyBytes k)[i] := by
  have hk := k.keyBase_le
  rw [memRead_key s _ (by omega), State.keyBytes, Vector.getElem_ofFn]

theorem hostRead_sameCore (a : Offset) (s : State) : SameCore s (hostRead a s) := ⟨rfl, rfl, rfl, rfl, rfl, rfl⟩

/-! ### Writes -/

theorem setIfInBounds_eq_set {n i : Nat} (h : i < n) (xs : Vector Byte n) (v : Byte) :
    xs.setIfInBounds i v = xs.set i v := by
  ext j hj
  rw [Vector.getElem_setIfInBounds, Vector.getElem_set]

theorem memWrite_key {s : State} {a : Offset} (hb : s.status.busy = false) (h : a.toNat ≤ 0x17) (v : Byte) :
    memWrite a v s = .next (s.setKeyByte a.toNat v) := turnStep_of_effect (.keyWritten a v hb h)

theorem memWrite_din {s : State} {a : Offset} (hb : s.status.busy = false) (hlt : 0x17 < a.toNat)
    (hle : a.toNat ≤ 0x1F) (v : Byte) : memWrite a v s = .next (s.setDinByte (a.toNat - 0x18) v) :=
  turnStep_of_effect (.dinWritten a v hb hlt hle)

theorem memWrite_busy {s : State} {a : Offset} (hb : s.status.busy = true) (h : a.toNat ≤ 0x1F) (v : Byte) :
    memWrite a v s = .next (s.refuse .busy) := turnStep_of_effect (.refusedBusy a v hb (.inl h))

theorem memWrite_ignored {a : Offset} (hlt : 0x1F < a.toNat) (hc : a ≠ Config.cmdOffset) (v : Byte) (s : State) :
    memWrite a v s = .next s := turnStep_of_effect (.ignored a v hlt hc)

/-! ### A read after a write -/

theorem memRead_setKeyByte {a : Offset} (ha : a.toNat ≤ 0x17) (b : Offset) (v : Byte) (s : State) :
    memRead (s.setKeyByte a.toNat v) b = if b = a then v else memRead s b := by
  split
  case isTrue h =>
    subst h
    simp [memRead_of_key ha]
  case isFalse h =>
    by_cases hb : b.toNat ≤ 0x17
    · have hne : a.toNat ≠ b.toNat := offset_toNat_ne (Ne.symm h)
      simp [memRead_of_key hb, hne]
    · exact memRead_congr b (fun h => absurd h hb) (fun _ _ => rfl) (fun _ _ => ⟨rfl, .inr ⟨rfl, rfl⟩⟩) (fun _ => rfl)
        (fun _ => rfl)

theorem memRead_setDinByte {a : Offset} (hlt : 0x17 < a.toNat) (hle : a.toNat ≤ 0x1F) (b : Offset) (v : Byte)
    (s : State) : memRead (s.setDinByte (a.toNat - 0x18) v) b = if b = a then v else memRead s b := by
  split
  case isTrue h =>
    subst h
    simp [memRead_of_din hlt hle]
  case isFalse h =>
    by_cases hb : 0x17 < b.toNat ∧ b.toNat ≤ 0x1F
    · obtain ⟨hblt, hble⟩ := hb
      have hne : a.toNat - 0x18 ≠ b.toNat - 0x18 := by
        have := offset_toNat_ne h
        omega
      simp [memRead_of_din hblt hble, hne]
    · exact memRead_congr b (fun _ => rfl) (fun hblt hble => absurd ⟨hblt, hble⟩ hb)
        (fun _ _ => ⟨rfl, .inr ⟨rfl, rfl⟩⟩) (fun _ => rfl) (fun _ => rfl)

/-! ### The statements about one access -/

/-- Settles O42: the write sets one byte of `KEY` or of `DIN`, and only its own offset reads that byte. -/
theorem dataWriteStoresOneByte : Obligations.DataWriteStoresOneByte := by
  intro s a v hb ha
  have hle : a.toNat ≤ 0x1F := ha
  by_cases hk : a.toNat ≤ 0x17
  · exact ⟨_, memWrite_key hb hk v, by rw [memRead_setKeyByte hk, if_pos rfl],
      fun b hne => by rw [memRead_setKeyByte hk, if_neg hne], rfl, rfl, rfl, rfl⟩
  · have hlt : 0x17 < a.toNat := by omega
    exact ⟨_, memWrite_din hb hlt hle v, by rw [memRead_setDinByte hlt hle, if_pos rfl],
      fun b hne => by rw [memRead_setDinByte hlt hle, if_neg hne], rfl, rfl, rfl, rfl⟩

/-- Settles O39: one read lemma for each range of R52. -/
theorem memReadMap : Obligations.MemReadMap := by
  refine ⟨fun s => ⟨memRead_key s, memRead_din s, fun i h hc => ?_, memRead_cmd s, memRead_status s,
    memRead_reserved s, fun a => ⟨hostRead a s, rfl, rfl, hostRead_sameCore a s⟩⟩, fun c => decide_eq_true_iff⟩
  refine memRead_dout s i h ?_
  rw [State.cipherPending, Bool.and_eq_false_iff]
  exact hc

/-- Settles O40: one write lemma for each range of R53. -/
theorem memWriteMap : Obligations.MemWriteMap := by
  refine fun s v => ⟨fun i h hb => ?_, fun i h hb => ?_, fun a ha hb => memWrite_busy hb ha v, rfl,
    fun a hlt hc => memWrite_ignored hlt hc v s⟩
  · have e : (BitVec.ofNat 6 i).toNat = i := Nat.mod_eq_of_lt (by omega)
    rw [memWrite_key hb (by omega), e, State.setKeyByte, setIfInBounds_eq_set h]
  · have e : (BitVec.ofNat 6 (0x18 + i)).toNat = 0x18 + i := Nat.mod_eq_of_lt (by omega)
    rw [memWrite_din hb (by omega) (by omega), e, Nat.add_sub_cancel_left, State.setDinByte,
      setIfInBounds_eq_set h]

/-- Settles O41: no offset above `DIN` but that of `CMD` can be written (R54, R56). -/
theorem reservedAndReadOnlyOffsets : Obligations.ReservedAndReadOnlyOffsets := by
  intro s a v
  obtain ⟨-, -, -, -, ignored⟩ := memWriteMap s v
  exact ⟨fun h => ⟨memRead_reserved s a h, ignored a (by bv_omega) (by bv_omega)⟩,
    fun h => ignored a (by bv_omega) (by bv_omega)⟩

end Sys2Proof.Machine
end

section
/-! SUPPORT. The bytes of a buffer are those of its block, most significant byte first (spec/20_memory.md R57). -/

namespace Sys2Proof

/-- A byte appended on the right is the next digit to base 256. -/
theorem toNat_append_byte {n : Nat} (x : BitVec n) (y : Byte) : (x ++ y).toNat = x.toNat * 256 + y.toNat := by
  rw [BitVec.toNat_append, ← Nat.shiftLeft_add_eq_or_of_lt y.isLt, Nat.shiftLeft_eq]

/-- `be(B)` is the number that the bytes write to base 256 (spec/00_scope.md R11). -/
theorem toNat_blockOfBytes (b : Vector Byte 8) : (blockOfBytes b).toNat =
    b[0].toNat * 256 ^ 7 + b[1].toNat * 256 ^ 6 + b[2].toNat * 256 ^ 5 + b[3].toNat * 256 ^ 4 +
      b[4].toNat * 256 ^ 3 + b[5].toNat * 256 ^ 2 + b[6].toNat * 256 + b[7].toNat := by
  simp only [blockOfBytes, toNat_append_byte]
  ring

end Sys2Proof

namespace Sys2Proof.Machine

/-- Settles O43: each register reads as the bytes of its buffer, and packing loses none of them. -/
theorem blocksAreBigEndian : Obligations.BlocksAreBigEndian := by
  refine ⟨toNat_blockOfBytes, fun s => ⟨fun i hi => ⟨?_, fun k => ?_, fun hc => ?_⟩, ?_, ?_⟩⟩
  · rw [memRead_din s i hi, State.dinBlock, byteOfBlock_blockOfBytes s.din i hi]
  · rw [memRead_keyBytes s k i hi, State.keyBlock, byteOfBlock_blockOfBytes (s.keyBytes k) i hi]
  · rw [memRead_dout s i hi hc, State.doutBlock, byteOfBlock_blockOfBytes s.dout i hi]
  · exact (getMsbD_blockOfBytes s.din 0 0 (by decide) (by decide)).trans
      (congrArg (BitVec.getLsbD · 7) (memRead_din s 0 (by decide)).symm)
  · exact (getMsbD_blockOfBytes s.din 7 7 (by decide) (by decide)).trans
      (congrArg (BitVec.getLsbD · 0) (memRead_din s 7 (by decide)).symm)

end Sys2Proof.Machine
end

section
/-! SUPPORT. Host reads between the steps of the engine change no register of the core, and the completion step reads
nothing but these registers (spec/20_memory.md R61). -/

namespace Sys2Proof.Machine

variable {s t u : State}

theorem SameCore.refl (s : State) : SameCore s s := ⟨rfl, rfl, rfl, rfl, rfl, rfl⟩

theorem SameCore.trans (h : SameCore s t) (h' : SameCore t u) : SameCore s u :=
  ⟨h'.key.trans h.key, h'.din.trans h.din, h'.dout.trans h.dout, h'.ks.trans h.ks, h'.cmd.trans h.cmd,
    h'.status.trans h.status⟩

theorem State.setTurns_sameCore (s : State) (us : List Turn) : SameCore s (s.setTurns us) :=
  ⟨rfl, rfl, rfl, rfl, rfl, rfl⟩

/-- What completion leaves in the registers depends on the registers alone. -/
theorem SameCore.completed (h : SameCore s t) (i : Instr) : SameCore (s.completed i) (t.completed i) := by
  have fs := s.completed_spec i
  have ft := t.completed_spec i
  exact {
    key := by rw [ft.key, fs.key, h.key]
    din := by rw [ft.din, fs.din, h.din]
    dout := by rw [ft.dout, fs.dout, State.dinBlock, State.dinBlock, h.din, h.ks, h.dout]
    ks := PerSlot.ext_get fun k =>
      (ft.bank k).trans (by rw [State.keyBlock_congr h.key, State.bank_congr h.ks, ← fs.bank k]; rfl)
    cmd := by rw [ft.cmd, fs.cmd, h.cmd]
    status := Status.ext_fields (by rw [ft.busy, fs.busy]) (by rw [ft.done, fs.done])
      (fun k => (ft.valid k).trans (by rw [State.valid_congr (congrArg Status.kv h.status), ← fs.valid k]; rfl))
      (by rw [ft.err, fs.err, h.status]) }

/-- The engine's turn in a state with the registers of `s`, where the operation command `i` is pending. -/
theorem SameCore.exists_step_engine (h : SameCore s t) {i : Instr} (ho : i.isOperation = true)
    (hd : decode s.cmd = .command i) (hb : s.status.busy = true) {us : List Turn} (ht : t.turns = .engine :: us) :
    ∃ u, step t = .next u ∧ u.turns = us ∧ SameCore (s.completed i) u := by
  have hp : SameCore s (t.setTurns us) := h.trans (t.setTurns_sameCore us)
  refine ⟨_, ?_, ((t.setTurns us).completed_spec i).turns, hp.completed i⟩
  rw [step, ht]
  exact turnStep_of_effect (.completed i ho (hp.cmd ▸ hd) (hp.status ▸ hb))

/-- The turns in which the host reads the offsets, one after another. -/
def readTurns (as : List Offset) : List Turn := as.map fun a => .host (.read a)

/-- The run of the host reads that wait first goes on and changes no register of the core. -/
theorem exists_run_readTurns {s : State} (as : List Offset) {us : List Turn} (h : s.turns = readTurns as ++ us) :
    ∃ t, run as.length s = .next t ∧ t.turns = us ∧ SameCore s t := by
  induction as generalizing s with
  | nil => exact ⟨s, rfl, h, .refl s⟩
  | cons a as ih =>
    have hs : step s = .next (hostRead a (s.setTurns (readTurns as ++ us))) := by
      rw [step, h]
      rfl
    obtain ⟨t, hr, ht, hc⟩ := ih (s := hostRead a (s.setTurns (readTurns as ++ us))) rfl
    exact ⟨t, (run_succ_of_step _ hs).trans hr, ht, ((s.setTurns_sameCore _).trans (hostRead_sameCore a _)).trans hc⟩

/-- Settles O60: the reads before keep the registers that completion reads, and the reads after those it leaves. -/
theorem pollingDoesNotChangeTheResult : Obligations.PollingDoesNotChangeTheResult := by
  intro s before after hp hb
  obtain ⟨i, hd, ho⟩ := hp.holdsOperation (.inl hb)
  obtain ⟨t₁, hr₁, ht₁, hc₁⟩ :=
    exists_run_readTurns (s := s.setTurns (readTurns before ++ .engine :: readTurns after)) before rfl
  obtain ⟨t₂, hr₂, ht₂, hc₂⟩ := ((s.setTurns_sameCore _).trans hc₁).exists_step_engine ho hd hb ht₁
  obtain ⟨t₃, hr₃, -, hc₃⟩ := exists_run_readTurns (us := []) after (ht₂.trans (List.append_nil _).symm)
  have hr : run (before.length + (after.length + 1)) (s.setTurns (readTurns before ++ .engine :: readTurns after)) =
      .next t₃ := by rw [run_add _ _ hr₁, run_succ_of_step _ hr₂, hr₃]
  refine ⟨t₃, s.completed i, complete_of_decode hd ho, ?_, hc₂.trans hc₃⟩
  rw [Nat.add_assoc, Nat.add_comm 1]
  exact hr

end Sys2Proof.Machine
end

section
/-! SUPPORT. The command byte (spec/30_encoding.md R75 to R79): the legal bytes are the fourteen that `encode` gives.
And what the host reads after a command: the registers that the command's row of R78 does not name are kept. -/

namespace Sys2Proof.Machine

/-! ### The bytes of the commands -/

/-- The bytes of the commands are the first column of the table of R78. -/
theorem forall_encode {p : Byte → Prop} : (∀ i, p (encode i)) ↔
    p 0x01#8 ∧ p 0x02#8 ∧ p 0x10#8 ∧ p 0x11#8 ∧ p 0x12#8 ∧ p 0x13#8 ∧ p 0x21#8 ∧ p 0x22#8 ∧ p 0x23#8 ∧
    p 0x31#8 ∧ p 0x32#8 ∧ p 0x33#8 ∧ p 0x40#8 ∧ p 0x50#8 := by
  refine ⟨fun h => ⟨h .clre, h .srst, h .kgena, h .kgen1, h .kgen2, h .kgen3, h .dese1, h .dese2, h .dese3, h .desd1,
    h .desd2, h .desd3, h .tdese, h .tdesd⟩, ?_⟩
  rintro ⟨h01, h02, h10, h11, h12, h13, h21, h22, h23, h31, h32, h33, h40, h50⟩ i
  cases i <;> assumption

theorem decode_eq_illegal_iff (c : Byte) : decode c = .illegal ↔ ∀ i, c ≠ encode i := by
  constructor
  · rintro h i rfl
    exact absurd (decode_encode i ▸ h) (by simp)
  · intro h
    cases hd : decode c with
    | illegal => rfl
    | command i => exact absurd (encode_of_decode c i hd).symm (h i)

/-- Settles O1: each byte of the table is the `encode` of its row. -/
theorem tableBytesDecode : Obligations.TableBytesDecode :=
  ⟨decode_encode .clre, decode_encode .srst, decode_encode .kgena, decode_encode .kgen1, decode_encode .kgen2,
    decode_encode .kgen3, decode_encode .dese1, decode_encode .dese2, decode_encode .dese3, decode_encode .desd1,
    decode_encode .desd2, decode_encode .desd3, decode_encode .tdese, decode_encode .tdesd⟩

/-! ### The fields of the byte -/

theorem byteOfFields_fieldsOf (c : Byte) : byteOfFields (fieldsOf c) = c := by
  rw [byteOfFields, fieldsOf, BitVec.extractLsb'_append_extractLsb'_eq_extractLsb' (by decide)]
  exact BitVec.extractLsb'_eq_self

theorem wf_fieldsOf_encode (i : Instr) : (fieldsOf (encode i)).wf = true := by cases i <;> rfl

/-- The rows of R76 cover every `arg` that well-formedness allows in an operation group: no group allows one above 3. -/
theorem decodeFields_ne_illegal_of_wf {f : CommandFields} (h : f.wf = true) : decodeFields f ≠ .illegal := by
  unfold CommandFields.wf at h
  split at h
  case h_7 => exact absurd h Bool.false_ne_true
  all_goals
    rename_i hop
    simp only [Bool.or_eq_true, Bool.and_eq_true, beq_iff_eq, decide_eq_true_eq, BitVec.le_def, ← BitVec.toNat_inj,
      BitVec.toNat_ofNat] at h
    have hle : f.arg.toNat ≤ 3 := by omega
    interval_cases harg : f.arg.toNat <;> simp [decodeFields, hop, harg] at h ⊢

/-- Settles O2: the bytes with well-formed fields are those that `encode` gives. -/
theorem encodeThenDecode : Obligations.EncodeThenDecode := by
  refine ⟨fun i => ⟨decode_encode i, wf_fieldsOf_encode i⟩, fun c => ⟨byteOfFields_fieldsOf c,
    decodeFields_ne_illegal_of_wf, fun h => ?_⟩⟩
  cases hd : decode c with
  | illegal => exact absurd hd h
  | command i => exact encode_of_decode c i hd ▸ wf_fieldsOf_encode i

/-- Settles O3: the list of R76 as a match on the two fields is the list as a chain of tests, all of which fail in the
match's last case. -/
theorem decodeIsTotalByFields : Obligations.DecodeIsTotalByFields := by
  intro c
  simp only [decode, decodeFields, fieldsOf, ← BitVec.toNat_inj, BitVec.toNat_ofNat]
  generalize (c.extractLsb' 4 4).toNat = op
  generalize (c.extractLsb' 0 4).toNat = arg
  split
  case h_15 =>
    simp only [imp_false, ← not_and] at *
    iterate 14 rw [if_neg ‹_›]
  all_goals rfl

/-! ### The illegal bytes -/

/-- Settles O4: the ranges of R79 are the complement of the fourteen bytes, and issuing an illegal byte is a refusal. -/
theorem illegalBytesAreRefused : Obligations.IllegalBytesAreRefused := by
  refine ⟨fun c => ?_, by decide +kernel,
    fun c s hd => (turnStep_write_illegal hd s).trans (congrArg Host.Outcome.next (s.refuse_eq _))⟩
  rw [decode_eq_illegal_iff, forall_encode (p := (c ≠ ·))]
  bv_omega

/-! ### What the host reads after a command -/

/-- A command that needs no bank is no cipher command. -/
theorem isCipherByte_of_needs_nil {i : Instr} : i.needs = [] → isCipherByte (encode i) = false := by
  cases i <;> decide

theorem State.cipherPending_of_needs_nil {s : State} {i : Instr} (hd : decode s.cmd = .command i) (h : i.needs = []) :
    s.cipherPending = false := by
  rw [State.cipherPending, ← encode_of_decode _ i hd, isCipherByte_of_needs_nil h, Bool.and_false]

theorem decode_accepted_cmd (s : State) (i : Instr) : decode (s.accepted i).cmd = .command i := by
  rw [(s.accepted_spec i).cmd, decode_encode]

section Untouched

/- The offsets that are none of the registers that an operation command writes: not `CMD`, not `STATUS`, and not `DOUT`
if it is a cipher command. -/
variable {s : State} {i : Instr} {a : Offset} (hc : a ≠ 0x28#6) (hst : a ≠ 0x29#6)
  (hout : i.needs = [] ∨ a < 0x20#6 ∨ 0x27#6 < a)
include hc hst hout

/-- The host reads `KEY`, `DIN` and zeros at these offsets, and `DOUT` if the command needs no bank. -/
theorem memRead_eq_of_untouched {t : State} (key : t.key = s.key) (din : t.din = s.din)
    (dout : i.needs = [] → t.dout = s.dout ∧ t.cipherPending = false ∧ s.cipherPending = false) :
    memRead t a = memRead s a := by
  refine memRead_congr a (fun _ => key) (fun _ _ => din) (fun hlt hle => ?_)
    (fun h => absurd h (offset_toNat_ne hc)) (fun h => absurd h (offset_toNat_ne hst))
  obtain hn | hoff := hout
  · obtain ⟨hd, hp⟩ := dout hn
    exact ⟨hd, .inl hp⟩
  · bv_omega

theorem memRead_accepted (hb : s.status.busy = false) : memRead (s.accepted i) a = memRead s a := by
  have f := s.accepted_spec i
  exact memRead_eq_of_untouched hc hst hout f.key f.din fun hn =>
    ⟨f.dout, State.cipherPending_of_needs_nil (decode_accepted_cmd s i) hn, State.cipherPending_of_idle hb⟩

theorem memRead_completed (hd : decode s.cmd = .command i) : memRead (s.completed i) a = memRead s a := by
  have f := s.completed_spec i
  refine memRead_eq_of_untouched hc hst hout f.key f.din fun hn =>
    ⟨State.completed_dout_of_not_cipher hd ?_, State.cipherPending_of_idle f.busy,
      State.cipherPending_of_needs_nil hd hn⟩
  rw [← encode_of_decode _ i hd, isCipherByte_of_needs_nil hn]

end Untouched

/-- Settles O38: acceptance and completion keep what is read outside the command's registers, and `CLRE` changes `ERR`
alone. -/
theorem commandsTouchOnlyTheirRegisters : Obligations.CommandsTouchOnlyTheirRegisters := by
  refine ⟨fun i s ho hb hv => ?_, fun s hb => ⟨s.clearErr, ?_, fun a hst => ?_⟩⟩
  · have hd := decode_accepted_cmd s i
    refine ⟨_, _, exec_accepted ho hb hv, complete_of_decode hd ho, fun a hc hst hout => ?_⟩
    have ha := memRead_accepted hc hst hout hb
    exact ⟨ha, (memRead_completed hc hst hout hd).trans ha⟩
  · rw [← turnStep_write_encode]
    exact turnStep_of_effect (.errorCleared hb)
  · exact memRead_congr a (fun _ => rfl) (fun _ _ => rfl) (fun _ _ => ⟨rfl, .inr ⟨rfl, rfl⟩⟩) (fun _ => rfl)
      (fun h => absurd h (offset_toNat_ne hst))

end Sys2Proof.Machine
end

section
/-! SUPPORT. The Permutation Engine (spec/40_permutation.md): what a table selects (R100), pairs of inverse tables (R110,
R111) and the entries of the tables (R106, R108, R109). -/

namespace Sys2Proof

/-- R102: every entry of a table is a 1-based index into the input. -/
theorem Table.entry_bounds {nIn nOut : Nat} (T : Table nIn nOut) {t : Nat} (ht : t ∈ T.entries) : 1 ≤ t ∧ t ≤ nIn := by
  have h := T.wf
  simp only [tableWf, Bool.and_eq_true, List.all_eq_true, decide_eq_true_eq] at h
  exact h.2 t ht

end Sys2Proof

namespace Sys2Proof.Machine

/-! ### What a table selects -/

section Selection

variable {nIn nOut : Nat} (T : Table nIn nOut) (V : BitVec nIn) {j t : Nat}

/-- R100 in DES numbering, for an entry found by lookup. -/
theorem getMsbD_permute_of_entry (h : T.entries[j]? = some t) : (permute T V).getMsbD j = V.getMsbD (t - 1) := by
  obtain ⟨hj, rfl⟩ := List.getElem?_eq_some_iff.mp h
  exact getMsbD_permute T V j hj

/-- R100 in register numbering. -/
theorem getLsbD_permute_of_entry (h : T.entries[j]? = some t) :
    (permute T V).getLsbD (nOut - 1 - j) = V.getLsbD (nIn - t) := by
  obtain ⟨hj, ht⟩ := List.getElem?_eq_some_iff.mp h
  have ⟨hpos, hle⟩ := T.entry_bounds (ht ▸ List.getElem_mem hj)
  rw [T.length_entries] at hj
  have hbit := getMsbD_permute_of_entry T V h
  rwa [BitVec.getMsbD_eq_getLsbD, BitVec.getMsbD_eq_getLsbD, decide_eq_true hj, decide_eq_true (by omega),
    Bool.true_and, Bool.true_and, show nIn - 1 - (t - 1) = nIn - t by omega] at hbit

/-- An input whose bits are all `b` has an output whose bits are all `b`. -/
theorem permute_eq_of_constant {W : BitVec nOut} {b : Bool} (hV : ∀ i, i < nIn → V.getMsbD i = b)
    (hW : ∀ i, i < nOut → W.getMsbD i = b) : permute T V = W := by
  refine permute_ext T fun j hj => ?_
  have ⟨hpos, hle⟩ := T.entry_bounds (List.getElem_mem hj)
  rw [getMsbD_permute T V j hj, hV _ (by omega), hW j (T.length_entries ▸ hj)]

theorem permute_zero : permute T 0#nIn = 0#nOut :=
  permute_eq_of_constant T _ (fun _ _ => BitVec.getMsbD_zero) fun _ _ => BitVec.getMsbD_zero

theorem permute_allOnes : permute T (BitVec.allOnes nIn) = BitVec.allOnes nOut :=
  permute_eq_of_constant T _ (b := true) (fun i hi => by simp [hi]) fun i hi => by simp [hi]

end Selection

/-- Settles O5: every position has an entry, and the entry names the input bit in both numberings. -/
theorem permuteSelectsBits : Obligations.PermuteSelectsBits := by
  refine ⟨fun nIn nOut T V => ⟨fun j hj => ?_, permute_zero T, permute_allOnes T⟩, ?_⟩
  · rw [← T.length_entries] at hj
    have hentry := List.getElem?_eq_getElem hj
    have ⟨hpos, hle⟩ := T.entry_bounds (List.getElem_mem hj)
    exact ⟨_, hentry, hpos, hle, getMsbD_permute_of_entry T V hentry, getLsbD_permute_of_entry T V hentry⟩
  · rintro ⟨_, _⟩ rfl
    rfl

/-! ### Identity and inverse tables -/

/-- R111: the table `1, 2, ..., n` sends every bit to its own place. -/
theorem permute_identity {n : Nat} (T : Table n n) (V : BitVec n) (hT : T.entries = List.range' 1 n) :
    permute T V = V := by
  refine permute_ext T fun j hj => ?_
  simp [getMsbD_permute T V j hj, hT]

/-- R111: the bit that `U` takes from position `U[i] - 1` is the one that `T` took there from position `i`. -/
theorem permute_permute_of_inverse {n : Nat} (T U : Table n n) (V : BitVec n)
    (hinv : ∀ i u, U.entries[i]? = some u → T.entries[u - 1]? = some (i + 1)) : permute U (permute T V) = V := by
  refine permute_ext U fun i hi => ?_
  have hentry := List.getElem?_eq_getElem hi
  calc (permute U (permute T V)).getMsbD i
      = (permute T V).getMsbD (U.entries[i] - 1) := getMsbD_permute_of_entry U _ hentry
    _ = V.getMsbD i := getMsbD_permute_of_entry T V (hinv i _ hentry)

/-- Settles O6: both halves compare the two sides bit by bit, by R100. -/
theorem permuteIdentityAndInversePair : Obligations.PermuteIdentityAndInversePair :=
  ⟨fun _ => permute_identity, fun _ => permute_permute_of_inverse⟩

/-- The hypothesis of `permute_permute_of_inverse` from the equations of R110: an entry `i + 1` is not the default 0. -/
theorem inverse_entries_of_getD {n : Nat} {T U : Table n n}
    (h : ∀ i, i < n → T.entries.getD (U.entries.getD i 0 - 1) 0 = i + 1) (i u : Nat) (hu : U.entries[i]? = some u) :
    T.entries[u - 1]? = some (i + 1) := by
  obtain ⟨hi, -⟩ := List.getElem?_eq_some_iff.mp hu
  have hT := h i (U.length_entries ▸ hi)
  rw [List.getD_eq_getElem?_getD (l := U.entries), hu, Option.getD_some, List.getD_eq_getElem?_getD] at hT
  cases hlook : T.entries[u - 1]? with
  | none => simp [hlook] at hT
  | some v => rw [← hT, hlook, Option.getD_some]

/-- R110, the entries: `FP` undoes `IP`. -/
theorem tableFP_entry_of_tableIP : ∀ j, j < 64 → tableFP.entries.getD (tableIP.entries.getD j 0 - 1) 0 = j + 1 := by
  decide

/-- R110, the entries: `IP` undoes `FP`. -/
theorem tableIP_entry_of_tableFP : ∀ j, j < 64 → tableIP.entries.getD (tableFP.entries.getD j 0 - 1) 0 = j + 1 := by
  decide

/-- R110, the values: `FP` undoes `IP`. -/
@[simp] theorem permute_tableFP_tableIP (V : Block) : permute tableFP (permute tableIP V) = V :=
  permute_permute_of_inverse _ _ V (inverse_entries_of_getD tableIP_entry_of_tableFP)

/-- R110, the values: `IP` undoes `FP`. -/
@[simp] theorem permute_tableIP_tableFP (V : Block) : permute tableIP (permute tableFP V) = V :=
  permute_permute_of_inverse _ _ V (inverse_entries_of_getD tableFP_entry_of_tableIP)

/-- Settles O7: the entries of `IP` and `FP` make them an inverse pair of tables in either order. -/
theorem finalPermutationInvertsInitial : Obligations.FinalPermutationInvertsInitial :=
  ⟨fun j hj => ⟨tableFP_entry_of_tableIP j hj, tableIP_entry_of_tableFP j hj⟩,
    fun V => ⟨permute_tableFP_tableIP V, permute_tableIP_tableFP V⟩⟩

/-! ### The entries of the tables -/

/-- R106: row `g` of `E` is the four bits of group `g` with a neighbour on either side, and the index wraps around. -/
theorem tableE_entry : ∀ g, g < 8 → ∀ i, i < 6 →
    tableE.entries[6 * g + i]? = some ((4 * g + i + 31) % 32 + 1) := by
  decide

/-- R108: `PC1` drops the parity bits and selects every other bit once. -/
theorem tablePC1_count : ∀ t, t < 65 → tablePC1.entries.count t = if t % 8 = 0 then 0 else 1 := by
  decide

/-- R109: `PC2` drops eight bits and selects every other bit once. -/
theorem tablePC2_count : ∀ t, t < 57 →
    tablePC2.entries.count t = if t ∈ [0, 9, 18, 22, 25, 35, 38, 43, 54] then 0 else 1 := by
  decide

/-- Settles O8: the entries of `E`, `PC1` and `PC2`, each over its whole index range. -/
theorem tableEntryFacts : Obligations.TableEntryFacts :=
  ⟨tableE_entry, tablePC1_count, tablePC2_count, by decide, by decide⟩

end Sys2Proof.Machine
end

section
/-! SUPPORT. The S-boxes, the substitution and the Feistel function (spec/41_des_block.md R121 to R127). -/

namespace Sys2Proof.Machine

/-! ### One S-box -/

/-- R123: the column is the number that the middle bits write, in DES numbering. -/
theorem sboxCol_eq : ∀ x : BitVec 6, sboxCol x =
    8 * (x.getMsbD 1).toNat + 4 * (x.getMsbD 2).toNat + 2 * (x.getMsbD 3).toNat + (x.getMsbD 4).toNat := by
  decide

theorem sbox_of_row_col {g : Fin 8} {x : BitVec 6} {row : Fin 4} {col : Fin 16} (hrow : row.val = sboxRow x)
    (hcol : col.val = sboxCol x) : sbox g x = (sboxTable g)[row][col] := by
  simp only [sbox, Fin.getElem_fin, hrow, hcol]

/-- Settles O9: the outer bits are the row by definition, and the middle bits the column by `sboxCol_eq`. -/
theorem sboxLookup : Obligations.SboxLookup :=
  ⟨fun _ x _ _ hrow hcol => sbox_of_row_col hrow (hcol.trans (sboxCol_eq x).symm), by decide⟩

/-- Settles O10: a search of each of the 32 rows for each of the 16 values. -/
theorem sboxRowsArePermutations : Obligations.SboxRowsArePermutations := by
  unfold Obligations.SboxRowsArePermutations
  decide +kernel

/-! ### Substitution -/

/-- R125: group `g` of the output is the substitute of group `g` of the input. -/
theorem extractLsb'_subst (X : ExpandedBlock) (g : Fin 8) :
    (subst X).extractLsb' (28 - 4 * g.val) 4 = sbox g (group X g) := by
  unfold subst
  fin_cases g
  all_goals
    simp (disch := decide) only [BitVec.extractLsb'_append_eq_of_le, BitVec.extractLsb'_append_eq_right,
      BitVec.extractLsb'_eq_self, Nat.reduceMul, Nat.reduceSub]
    rfl

/-- R125: the worked example. -/
theorem subst_example : subst 0x6117BA866527#48 = 0x5C82B597#32 := by decide +kernel

/-- R125: the first column of the first rows. -/
theorem subst_zero : subst 0#48 = 0xEFA72C4D#32 := by decide +kernel

/-- R125: the last column of the last rows. -/
theorem subst_allOnes : subst (BitVec.allOnes 48) = 0xD9CE3DCB#32 := by decide +kernel

/-- Settles O11: the groups one by one, and the three worked examples. -/
theorem substitutionByGroups : Obligations.SubstitutionByGroups :=
  ⟨extractLsb'_subst, subst_example, subst_zero, subst_allOnes⟩

/-! ### The Feistel function -/

/-- R126 step by step: the expanded half with the key added, its substitute, and the permuted substitute. -/
theorem feistelF_eq {R : HalfBlock} {K : RoundKey} {X : ExpandedBlock} {Z W : HalfBlock}
    (hX : permute tableE R ^^^ K = X) (hZ : subst X = Z) (hW : permute tableP Z = W) : feistelF R K = W := by
  rw [feistelF, hX, hZ, hW]

/-- Settles O12: the corner cases expand to all zeros or all ones, whose substitutes R125 gives. -/
theorem feistelFunction : Obligations.FeistelFunction := by
  have hP1 : permute tableP 0xD9CE3DCB#32 = 0x38DBF9CB#32 := by decide +kernel
  have hE : permute tableE 0xF0AAF0AA#32 = 0x7A15557A1555#48 := by decide +kernel
  have hX : 0x7A15557A1555#48 ^^^ 0x1B02EFFC7072#48 = 0x6117BA866527#48 := by decide
  refine ⟨fun _ _ => rfl, ?_, ?_, ?_, hE, hX, subst_example, ?_⟩
  · exact feistelF_eq (by rw [permute_zero, BitVec.xor_zero]) subst_zero (by decide +kernel)
  · exact feistelF_eq (by rw [BitVec.xor_zero]; exact permute_allOnes tableE) subst_allOnes hP1
  · exact feistelF_eq (by rw [permute_zero, BitVec.zero_xor]; rfl) subst_allOnes hP1
  · exact feistelF_eq (by rw [hE, hX]) subst_example (by decide +kernel)

/-! ### One round, and the halves of a block -/

/-- Settles O13: the two forms of the round. -/
theorem oneRound : Obligations.OneRound :=
  fun L R K => ⟨feistelRound_swap (L, R) K, feistelRound_noSwap (L, R) K⟩

/-- Settles O14: `split` and `‖` are slices and concatenation, and inverse to one another. -/
theorem splitAndConcatenate : Obligations.SplitAndConcatenate :=
  ⟨fun V => ⟨rfl, joinHalves_splitBlock V⟩, fun L R => ⟨rfl, splitBlock_joinHalves (L, R)⟩⟩

end Sys2Proof.Machine
end

section
/-! SUPPORT. DES as sixteen swapping rounds in an order and one exchange of the halves (spec/41_des_block.md R128,
R129): its inverse (R132), the reversed keys (R129) and the textbook form (R134) are facts about the swapping rounds. -/

namespace Sys2Proof.Machine

/-- The block after `IP`, the swapping rounds of the listed indices, one exchange of the halves, and `FP`. -/
def desInOrder (S : KeySchedule) (order : List (Fin 16)) (B : Block) : Block :=
  permute tableFP (joinHalves (swapHalves (swapRounds S order (splitBlock (permute tableIP B)))))

theorem desEnc_eq (B : Block) (S : KeySchedule) : desEnc B S = desInOrder S encryptOrder B := by
  rw [desEnc, feistelRounds_encrypt, desInOrder]

theorem desDec_eq (B : Block) (S : KeySchedule) : desDec B S = desInOrder S decryptOrder B := by
  rw [desDec, feistelRounds_decrypt, desInOrder]

/-! ### The inverse -/

/-- The rounds in reverse order give the block back. -/
theorem desInOrder_reverse (S : KeySchedule) (order : List (Fin 16)) (B : Block) :
    desInOrder S order.reverse (desInOrder S order B) = B := by
  simp [desInOrder, swapRounds_undo]

@[simp] theorem desDec_desEnc (B : Block) (S : KeySchedule) : desDec (desEnc B S) S = B := by
  rw [desEnc_eq, desDec_eq, ← reverse_encryptOrder, desInOrder_reverse]

@[simp] theorem desEnc_desDec (B : Block) (S : KeySchedule) : desEnc (desDec B S) S = B := by
  rw [desEnc_eq, desDec_eq, ← reverse_decryptOrder, desInOrder_reverse]

/-- Settles O15: the rounds of each order undo those of the other. -/
theorem desDecryptionInvertsEncryption : Obligations.DesDecryptionInvertsEncryption :=
  fun B S => ⟨desDec_desEnc B S, desEnc_desDec B S⟩

/-! ### The reversed keys -/

theorem decryptOrder_eq_map_rev : decryptOrder = encryptOrder.map Fin.rev := by decide

/-- Rounds of mirrored indices under a schedule are the rounds under the mirrored schedule. -/
theorem swapRounds_map_rev {S S2 : KeySchedule} (hS : ∀ i : Fin 16, S2[i] = S[i.rev]) (is : List (Fin 16))
    (h : HalfBlock × HalfBlock) : swapRounds S (is.map Fin.rev) h = swapRounds S2 is h := by
  simp only [swapRounds, List.foldl_map, hS]

/-- Settles O16: the order of decryption is that of encryption with every index mirrored. -/
theorem decryptionIsEncryptionWithReversedKeys : Obligations.DecryptionIsEncryptionWithReversedKeys := by
  intro B S S2 hS
  have hrev (i : Fin 16) : S2[i] = S[i.rev] := by
    rw [hS i, Fin.getElem_fin]
    congr 1
    rw [Fin.val_rev]
    omega
  rw [desDec_eq, desEnc_eq, desInOrder, desInOrder, decryptOrder_eq_map_rev, swapRounds_map_rev hrev]

/-! ### The textbook form -/

theorem encryptOrder_take_succ : ∀ n : Fin 16, encryptOrder.take (n.val + 1) = encryptOrder.take n.val ++ [n] := by
  decide

theorem ne_last_of_mem_take_encryptOrder : ∀ n, n < 16 → ∀ i ∈ encryptOrder.take n, i ≠ 15 := by decide

section Textbook

/- The halves of R134, round after round. -/
variable {S : KeySchedule} {L R : Nat → HalfBlock}
  (hLR : ∀ n : Fin 16, L (n.val + 1) = R n.val ∧ R (n.val + 1) = L n.val ^^^ feistelF (R n.val) S[n])
include hLR

/-- A swapping round takes the textbook pair of one index to that of the next. -/
theorem swapRounds_textbook (n : Nat) (hn : n ≤ 16) : swapRounds S (encryptOrder.take n) (L 0, R 0) = (L n, R n) := by
  induction n with
  | zero => rfl
  | succ n ih =>
    obtain ⟨hL, hR⟩ := hLR ⟨n, hn⟩
    rw [encryptOrder_take_succ ⟨n, hn⟩, swapRounds_append, ih (by omega), swapRounds_cons, swapRounds_nil,
      feistelRound_swap, hL, hR]

theorem feistelRounds_textbook {n : Nat} (hn : n < 16) :
    feistelRounds S 15 (encryptOrder.take n) (L 0, R 0) = (L n, R n) := by
  rw [feistelRounds_of_ne S 15 _ _ (ne_last_of_mem_take_encryptOrder n hn), swapRounds_textbook hLR n hn.le]

/-- The last round does not swap, so it leaves the textbook pair exchanged. -/
theorem feistelRounds_textbook_all : feistelRounds S 15 encryptOrder (L 0, R 0) = (R 16, L 16) := by
  rw [feistelRounds_encrypt]
  exact congrArg swapHalves (swapRounds_textbook hLR 16 (Nat.le_refl 16))

end Textbook

/-- Settles O17: the rounds start from the textbook pair of index 0. -/
theorem textbookDes : Obligations.TextbookDes := by
  intro B S L R h0 hLR
  have hstart : splitBlock (permute tableIP B) = (L 0, R 0) := h0 ▸ splitBlock_joinHalves (L 0, R 0)
  have hall := feistelRounds_textbook_all hLR
  rw [desEnc, hstart, hall]
  exact ⟨fun i hi => feistelRounds_textbook hLR (by omega), rfl, rfl⟩

/-! ### The published example -/

/-- A decryption whose result is known from the encryption. -/
theorem desDec_of_desEnc {B C : Block} {S : KeySchedule} (h : desEnc B S = C) : desDec C S = B := h ▸ desDec_desEnc B S

/-- Settles O18: the encryption is computed, and the decryption is its inverse. -/
theorem publishedDesExample : Obligations.PublishedDesExample := by
  have henc : desEnc 0x0123456789ABCDEF#64 (keysched 0x133457799BBCDFF1#64) = 0x85E813540F0AB405#64 := by decide +kernel
  exact ⟨by decide +kernel, by decide +kernel, henc, desDec_of_desEnc henc⟩

end Sys2Proof.Machine
end

section
/-! SUPPORT. The cipher commands (spec/41_des_block.md R130, R131, R133; spec/43_tdes.md R173, R174): what each does
when it is accepted, when it completes and when it is refused, said once for all of them. -/

namespace Sys2Proof.Machine

variable {s : State} {i : Instr}

/-! ### Every cipher command -/

theorem Instr.isOperation_of_isCipherByte {i : Instr} : isCipherByte (encode i) = true → i.isOperation = true := by
  cases i <;> decide

theorem Instr.isCipherByte_of_needs_ne_nil {i : Instr} : i.needs ≠ [] → isCipherByte (encode i) = true := by
  cases i <;> decide

/-- A command that writes a block to `DOUT` is a cipher command. -/
theorem isCipherByte_of_cipher {B V : Block} {S : TripleKeySet} (h : i.cipher B S = some V) :
    isCipherByte (encode i) = true := by
  rw [← isSome_cipher i B S, h, Option.isSome_some]

/-- An accepted cipher command invalidates no bank. -/
theorem State.accepted_of_isCipherByte (s : State) (hc : isCipherByte (encode i) = true) :
    s.accepted i = s.accept (encode i) := by
  rw [State.accepted, if_pos (generates_of_isCipherByte hc)]

/-- The completion of a cipher command writes `DOUT` and no bank. -/
theorem State.completed_of_cipher {V : Block} (hV : i.cipher s.dinBlock s.ks = some V) :
    s.completed i = (s.setDout V).finish := by
  rw [State.completed, generates_of_isCipherByte (isCipherByte_of_cipher hV), hV]
  rfl

/-- An operation command that is accepted is completed by the engine's next turn. -/
theorem runCommand_accepted (ho : i.isOperation = true) (hb : s.status.busy = false)
    (hv : ∀ k ∈ i.needs, s.valid k = true) : runCommand i s = .next ((s.accepted i).completed i) := by
  rw [runCommand, exec_accepted ho hb hv]
  exact (engineTurn_busy (s.accepted_spec i).busy).trans (complete_of_decode (decode_accepted_cmd s i) ho)

theorem exec_cipher (hc : isCipherByte (encode i) = true) (hb : s.status.busy = false)
    (hv : ∀ k ∈ i.needs, s.valid k = true) : exec i s = .next (s.accept (encode i)) := by
  rw [exec_accepted (Instr.isOperation_of_isCipherByte hc) hb hv, s.accepted_of_isCipherByte hc]

theorem runCommand_cipher {V : Block} (hV : i.cipher s.dinBlock s.ks = some V) (hb : s.status.busy = false)
    (hv : ∀ k ∈ i.needs, s.valid k = true) : runCommand i s = .next ((s.accept (encode i)).setDout V).finish := by
  have hc := isCipherByte_of_cipher hV
  rw [runCommand_accepted (Instr.isOperation_of_isCipherByte hc) hb hv, s.accepted_of_isCipherByte hc,
    State.completed_of_cipher (s := s.accept (encode i)) hV]

/-- Settles O58: the block is the same function of `DIN` and of the banks that the command needs. -/
theorem cipherResultDependsOnBlockAndBanksOnly : Obligations.CipherResultDependsOnBlockAndBanksOnly := by
  intro i s t hn hbs hbt hk hdin
  simp only [forall₂_and] at hk
  obtain ⟨hvs, hvt, hbank⟩ := hk
  obtain ⟨V, hV⟩ : ∃ V, i.cipher s.dinBlock s.ks = some V := by
    rw [← Option.isSome_iff_exists, isSome_cipher, Instr.isCipherByte_of_needs_ne_nil hn]
  have hV' : i.cipher t.dinBlock t.ks = some V := by
    rw [State.dinBlock, hdin, ← State.dinBlock, cipher_congr hbank, hV]
  exact ⟨_, _, runCommand_cipher hV hbs hvs, runCommand_cipher hV' hbt hvt, rfl⟩

/-! ### `DESEk` and `DESDk` -/

/-- The command `i` runs the cipher `f` with bank `k` alone. -/
structure SingleCipher (i : Instr) (k : Slot) (f : Block → KeySchedule → Block) : Prop where
  needs : i.needs = [k]
  cipher : ∀ B S, i.cipher B S = some (f B (S.get k))

theorem singleCipher_dese (k : Slot) : SingleCipher (.dese k) k desEnc := by
  cases k <;> exact ⟨rfl, fun _ _ => rfl⟩

theorem singleCipher_desd (k : Slot) : SingleCipher (.desd k) k desDec := by
  cases k <;> exact ⟨rfl, fun _ _ => rfl⟩

theorem encode_dese (k : Slot) : encode (.dese k) = PerSlot.get ⟨0x21#8, 0x22#8, 0x23#8⟩ k := by cases k <;> rfl

theorem encode_desd (k : Slot) : encode (.desd k) = PerSlot.get ⟨0x31#8, 0x32#8, 0x33#8⟩ k := by cases k <;> rfl

namespace SingleCipher

variable {k : Slot} {f : Block → KeySchedule → Block}

theorem isCipherByte (h : SingleCipher i k f) : isCipherByte (encode i) = true :=
  Instr.isCipherByte_of_needs_ne_nil (by simp [h.needs])

theorem isOperation (h : SingleCipher i k f) : i.isOperation = true := Instr.isOperation_of_isCipherByte h.isCipherByte

theorem needs_valid (h : SingleCipher i k f) (hv : s.valid k = true) : ∀ j ∈ i.needs, s.valid j = true := by
  simpa [h.needs] using hv

theorem exec_valid (h : SingleCipher i k f) (hb : s.status.busy = false) (hv : s.valid k = true) :
    exec i s = .next (s.accept (encode i)) := exec_cipher h.isCipherByte hb (h.needs_valid hv)

theorem runCommand_valid (h : SingleCipher i k f) (hb : s.status.busy = false) (hv : s.valid k = true) :
    runCommand i s = .next ((s.accept (encode i)).setDout (f s.dinBlock (s.bank k))).finish :=
  runCommand_cipher (h.cipher _ _) hb (h.needs_valid hv)

theorem exec_busy (h : SingleCipher i k f) (hb : s.status.busy = true) : exec i s = .next (s.refuse .busy) := by
  refine Machine.exec_busy ?_ hb
  rintro rfl
  exact absurd h.isOperation (by decide)

theorem exec_invalid (h : SingleCipher i k f) (hb : s.status.busy = false) (hv : s.valid k = false) :
    exec i s = .next (s.refuse .noKey) := exec_noKey h.isOperation hb (by simp [h.needs]) hv

end SingleCipher

/-- R130: the worked example. -/
theorem desEnc_example : desEnc 0x6162636465666768#64 (keysched 0x6162636465666768#64) = 0x2A8D69DE9D5FDFF9#64 := by
  decide +kernel

/-- Settles O34: `DESEk` is the single cipher `des_enc` with bank `k`. -/
theorem desekEncryptsDinToDout : Obligations.DesekEncryptsDinToDout := by
  refine ⟨fun k s hb hv => ?_, fun k s hb => ?_, fun k s hb hv => ?_, ?_⟩
  · rw [← encode_dese]
    exact ⟨(singleCipher_dese k).exec_valid hb hv, (singleCipher_dese k).runCommand_valid hb hv⟩
  · rw [(singleCipher_dese k).exec_busy hb, State.refuse_eq]
  · rw [(singleCipher_dese k).exec_invalid hb hv, State.refuse_eq]
  · rw [desEnc_example]
    decide

/-- Settles O35: `DESDk` is the single cipher `des_dec` with bank `k`. -/
theorem desdkDecryptsDinToDout : Obligations.DesdkDecryptsDinToDout := by
  refine ⟨fun k s hb hv => ?_, fun k s hb => ?_, fun k s hb hv => ?_, ?_⟩
  · rw [← encode_desd]
    exact ⟨(singleCipher_desd k).exec_valid hb hv, (singleCipher_desd k).runCommand_valid hb hv⟩
  · rw [(singleCipher_desd k).exec_busy hb, State.refuse_eq]
  · rw [(singleCipher_desd k).exec_invalid hb hv, State.refuse_eq]
  · rw [desDec_of_desEnc desEnc_example]
    decide

end Sys2Proof.Machine
end

section
/-! SUPPORT. The Key Schedule Generator (spec/42_key_schedule.md R150 to R159): every round key is permuted choice 2 of the
first halves rotated by the running total (R154), and the key reaches the schedule through permuted choice 1 alone. -/

namespace Sys2Proof.Machine

/-! ### The rotations -/

/-- Settles O19: the amounts and the totals are read off the list `rotations`. -/
theorem rotationSchedule : Obligations.RotationSchedule := ⟨rfl, by decide, by decide⟩

/-- R154: round key `r`, from the halves that the split leaves. -/
theorem getElem_keysched (K : Block) (r : Fin 16) : (keysched K)[r] = permute tablePC2
    ((leftHalf (permute tablePC1 K)).rotateLeft ((rotations.take (r.val + 1)).sum) ++
      (rightHalf (permute tablePC1 K)).rotateLeft ((rotations.take (r.val + 1)).sum)) := by
  have hround := getElem?_keysched K r.val
  rw [getElem?_roundKeys rotations _ _ (by decide) r.val r.isLt, Vector.getElem?_eq_getElem r.isLt] at hround
  exact Option.some.inj hround

/-- Halves that the total of round `r` leaves where they are give the round key of the unrotated halves. -/
theorem getElem_keysched_of_rotateLeft_eq {K : Block} {r : Fin 16}
    (hC : (leftHalf (permute tablePC1 K)).rotateLeft ((rotations.take (r.val + 1)).sum) = leftHalf (permute tablePC1 K))
    (hD : (rightHalf (permute tablePC1 K)).rotateLeft ((rotations.take (r.val + 1)).sum) =
      rightHalf (permute tablePC1 K)) :
    (keysched K)[r] = permute tablePC2 (permute tablePC1 K) := by
  rw [getElem_keysched, hC, hD, leftHalf_append_rightHalf]

/-- Settles O20: the total of round 15 is 28, a full turn of either half. -/
theorem rotationAccumulates : Obligations.RotationAccumulates := fun K =>
  ⟨getElem_keysched K, getElem_keysched_of_rotateLeft_eq (r := 15) (rotateLeft_half_28 _) (rotateLeft_half_28 _)⟩

/-! ### The parity bits -/

/-- Inputs that agree under a mask that covers every selected bit have the same permutation. -/
theorem permute_congr_of_mask {nIn nOut : Nat} (T : Table nIn nOut) {M V W : BitVec nIn}
    (hM : ∀ t ∈ T.entries, M.getMsbD (t - 1) = true) (h : V &&& M = W &&& M) : permute T V = permute T W := by
  refine permute_congr T V W fun t ht => ?_
  have hbit := congrArg (·.getMsbD (t - 1)) h
  simpa [hM t ht] using hbit

/-- R157: `PC1` selects no parity bit. -/
theorem parityMask_covers_tablePC1 : ∀ t ∈ tablePC1.entries, (0xFEFEFEFEFEFEFEFE#64).getMsbD (t - 1) = true := by
  decide

/-- The key schedule depends on permuted choice 1 of the key alone. -/
theorem keysched_congr {K K2 : Block} (h : permute tablePC1 K = permute tablePC1 K2) : keysched K = keysched K2 := by
  rw [keysched, keysched, h]

/-- Settles O21: the mask leaves out the parity bits, which permuted choice 1 drops. -/
theorem parityBitsIgnored : Obligations.ParityBitsIgnored := fun _ _ h =>
  keysched_congr (permute_congr_of_mask tablePC1 parityMask_covers_tablePC1 h)

/-! ### Equal round keys -/

theorem rotateLeft_half_of_constant {x : KeyHalf} (h : x = 0#28 ∨ x = BitVec.allOnes 28) (n : Nat) :
    x.rotateLeft n = x := by
  obtain rfl | rfl := h
  · exact rotateLeft_half_zero n
  · exact rotateLeft_half_allOnes n

/-- Under sixteen equal round keys the schedule is its own mirror image, so decryption is encryption (R129). -/
theorem desEnc_eq_desDec_of_equal_keys {S : KeySchedule} {rk : RoundKey} (hS : ∀ r : Fin 16, S[r] = rk) (B : Block) :
    desEnc B S = desDec B S := by
  refine (decryptionIsEncryptionWithReversedKeys B S S fun i => ?_).symm
  have hmirror : S[15 - i.val] = rk := hS ⟨15 - i.val, by omega⟩
  rw [hS i, hmirror]

/-- Halves of equal bits give sixteen times the round key of the unrotated halves. -/
theorem getElem_keysched_of_constant {K : Block}
    (hC : leftHalf (permute tablePC1 K) = 0#28 ∨ leftHalf (permute tablePC1 K) = BitVec.allOnes 28)
    (hD : rightHalf (permute tablePC1 K) = 0#28 ∨ rightHalf (permute tablePC1 K) = BitVec.allOnes 28) (r : Fin 16) :
    (keysched K)[r] = permute tablePC2 (permute tablePC1 K) :=
  getElem_keysched_of_rotateLeft_eq (rotateLeft_half_of_constant hC _) (rotateLeft_half_of_constant hD _)

theorem getElem_keysched_zero (r : Fin 16) : (keysched 0#64)[r] = 0#48 := by
  have hC : leftHalf (permute tablePC1 0#64) = 0#28 := by rw [permute_zero]; decide
  have hD : rightHalf (permute tablePC1 0#64) = 0#28 := by rw [permute_zero]; decide
  rw [getElem_keysched_of_constant (.inl hC) (.inl hD), permute_zero, permute_zero]

theorem getElem_keysched_allOnes (r : Fin 16) : (keysched (BitVec.allOnes 64))[r] = BitVec.allOnes 48 := by
  have hC : leftHalf (permute tablePC1 (BitVec.allOnes 64)) = BitVec.allOnes 28 := by rw [permute_allOnes]; decide
  have hD : rightHalf (permute tablePC1 (BitVec.allOnes 64)) = BitVec.allOnes 28 := by rw [permute_allOnes]; decide
  rw [getElem_keysched_of_constant (.inr hC) (.inr hD), permute_allOnes, permute_allOnes]

/-- Settles O22: every round key is the one of the unrotated halves; up to the parity bits the two keys of the examples
are all 0 and all 1, which the permuted choices keep. -/
theorem equalRoundKeysMakeDesSelfInverse : Obligations.EqualRoundKeysMakeDesSelfInverse := by
  refine ⟨fun K hC hD => ?_, ?_, ?_⟩
  · have hkeys := getElem_keysched_of_constant hC hD
    exact ⟨⟨_, hkeys⟩, desEnc_eq_desDec_of_equal_keys hkeys⟩
  · rw [parityBitsIgnored 0x0101010101010101#64 0#64 (by decide)]
    exact getElem_keysched_zero
  · rw [parityBitsIgnored 0xFEFEFEFEFEFEFEFE#64 (BitVec.allOnes 64) (by decide)]
    exact getElem_keysched_allOnes

end Sys2Proof.Machine
end

section
/-! SUPPORT. The key commands (spec/42_key_schedule.md R155, R156): what each does when it is accepted, when it completes
and when it is refused, said once for all of them by the list of banks that it generates. -/

namespace Sys2Proof.Machine

variable {s t u : State} {i : Instr} {gen gen' : List Slot}

/-! ### Every key command -/

/-- A command that generates a bank is an operation command. -/
theorem Instr.isOperation_of_generates {i : Instr} : i.generates ≠ [] → i.isOperation = true := by
  cases i <;> decide

theorem exec_key (hg : i.generates ≠ []) (hb : s.status.busy = false) : exec i s = .next (s.accepted i) :=
  exec_accepted (Instr.isOperation_of_generates hg) hb (by simp [Instr.needs_of_generates hg])

theorem complete_accepted_key (hg : i.generates ≠ []) :
    complete (s.accepted i) = .next ((s.accepted i).completed i) :=
  complete_of_decode (decode_accepted_cmd s i) (Instr.isOperation_of_generates hg)

/-- The whole of `STATUS` at the acceptance, from the flags. -/
theorem State.accepted_status_eq {kv : PerSlot Bool}
    (hkv : ∀ k, kv.get k = if k ∈ i.generates then false else s.valid k) :
    (s.accepted i).status = { s.status with busy := true, done := false, kv := kv } :=
  have f := s.accepted_spec i
  Status.ext_fields f.busy f.done (fun k => (f.valid k).trans (hkv k).symm) f.err

/-- The refusal of a key command in the busy window, as one record update. -/
theorem exec_key_busy (hg : i.generates ≠ []) (hb : s.status.busy = true) :
    exec i s = .next { s with status := { s.status with
      err := if s.status.err = .none then .busy else s.status.err } } := by
  rw [exec_busy (by rintro rfl; exact hg rfl) hb, State.refuse_eq]

/-- The banks of the list hold the schedules of their keys and are valid, the core is idle with `DONE = 1`, and `KEY`,
`DIN`, `DOUT`, `ERR` and the other banks and flags are as in `s` (R155, R156). -/
structure KeysGenerated (s : State) (gen : List Slot) (u : State) : Prop where
  key : u.key = s.key
  din : u.din = s.din
  dout : u.dout = s.dout
  busy : u.status.busy = false
  done : u.status.done = true
  err : u.status.err = s.status.err
  bank : ∀ k, u.bank k = if k ∈ gen then keysched (s.keyBlock k) else s.bank k
  valid : ∀ k, u.valid k = if k ∈ gen then true else s.valid k

/-- What a key command leaves, once it is issued and completed. -/
theorem keysGenerated_completed_accepted (hg : i.generates ≠ []) :
    KeysGenerated s i.generates ((s.accepted i).completed i) := by
  have fa := s.accepted_spec i
  have fc := (s.accepted i).completed_spec i
  have hc : isCipherByte (s.accepted i).cmd = false := by
    rw [fa.cmd, isCipherByte_of_needs_nil (Instr.needs_of_generates hg)]
  have hdout := State.completed_dout_of_not_cipher (decode_accepted_cmd s i) hc
  refine ⟨fc.key.trans fa.key, fc.din.trans fa.din, hdout.trans fa.dout, fc.busy, fc.done, fc.err.trans fa.err,
    fun k => ?_, fun k => ?_⟩
  · rw [fc.bank k, State.keyBlock_congr fa.key]
    exact ite_congr rfl (fun _ => rfl) fun hk => fa.bank k hk
  · rw [fc.valid k, fa.valid k]
    split <;> rfl

namespace KeysGenerated

/-- The whole of `STATUS`, from the flags. -/
theorem status_eq (h : KeysGenerated s gen u) {kv : PerSlot Bool}
    (hkv : ∀ k, kv.get k = if k ∈ gen then true else s.valid k) :
    u.status = { s.status with busy := false, done := true, kv := kv } :=
  Status.ext_fields h.busy h.done (fun k => (h.valid k).trans (hkv k).symm) h.err

/-- Two generations in a row are one generation of the banks of both. -/
theorem trans (h : KeysGenerated s gen t) (h' : KeysGenerated t gen' u) : KeysGenerated s (gen ++ gen') u where
  key := h'.key.trans h.key
  din := h'.din.trans h.din
  dout := h'.dout.trans h.dout
  busy := h'.busy
  done := h'.done
  err := h'.err.trans h.err
  bank k := by
    rw [h'.bank k, State.keyBlock_congr h.key, h.bank k]
    by_cases hk : k ∈ gen <;> simp [hk]
  valid k := by
    rw [h'.valid k, h.valid k]
    by_cases hk : k ∈ gen <;> simp [hk]

/-- The generation of given banks has one result in `KS`. -/
theorem ks_unique (h : KeysGenerated s gen t) (h' : KeysGenerated s gen u) : t.ks = u.ks :=
  PerSlot.ext_get fun k => (h.bank k).trans (h'.bank k).symm

/-- The generation of given banks has one result in `STATUS`. -/
theorem status_unique (h : KeysGenerated s gen t) (h' : KeysGenerated s gen u) : t.status = u.status :=
  (h.status_eq h'.valid).trans (h'.status_eq h'.valid).symm

end KeysGenerated

/-! ### `KGENk` -/

theorem generates_kgen (k : Slot) : (Instr.kgen k).generates = [k] := by cases k <;> rfl

theorem encode_kgen (k : Slot) : encode (.kgen k) = PerSlot.get ⟨0x11#8, 0x12#8, 0x13#8⟩ k := by cases k <;> rfl

theorem generates_kgen_ne_nil (k : Slot) : (Instr.kgen k).generates ≠ [] := by simp [generates_kgen]

/-- The flags with that of slot `k` replaced. -/
theorem get_kv_set (s : State) (k : Slot) (b : Bool) (j : Slot) :
    (s.status.kv.set k b).get j = if j ∈ (Instr.kgen k).generates then b else s.valid j := by
  simp [PerSlot.get_set, State.valid, generates_kgen]

/-- Settles O31: `KGENk` is the key command of the one bank `k`. -/
theorem kgenkGeneratesOneBank : Obligations.KgenkGeneratesOneBank := by
  refine ⟨fun k s hb => ?_, fun k s => exec_key_busy (generates_kgen_ne_nil k), by decide +kernel, by decide +kernel⟩
  have hg := generates_kgen_ne_nil k
  have fa := s.accepted_spec (.kgen k)
  have fc := keysGenerated_completed_accepted (s := s) hg
  refine ⟨_, _, exec_key hg hb, complete_accepted_key hg, fa.cmd.trans (encode_kgen k), fa.key, fa.din, fa.dout,
    State.accepted_status_eq (get_kv_set s k false), fun j hj => fa.bank j (by simpa [generates_kgen] using hj),
    (State.completed_spec _ _).cmd, fc.key, fc.din, fc.dout, fc.status_eq (get_kv_set s k true),
    PerSlot.ext_get fun j => (fc.bank j).trans ?_⟩
  rw [generates_kgen, PerSlot.get_set]
  by_cases hj : j = k
  · subst hj
    simp [State.keyBlock, State.keyBytes]
  · simp [hj, State.bank]

/-! ### `KGENA` -/

theorem generates_kgena : Instr.kgena.generates = Slot.all := rfl

theorem generates_kgena_ne_nil : Instr.kgena.generates ≠ [] := by decide

/-- Three flags of the same value. -/
theorem get_kv_all (s : State) (b : Bool) (k : Slot) :
    (PerSlot.mk b b b).get k = if k ∈ Instr.kgena.generates then b else s.valid k := by
  rw [generates_kgena, if_pos k.mem_all]
  cases k <;> rfl

/-- Settles O32: `KGENA` is the key command of all three banks. -/
theorem kgenaGeneratesAllBanks : Obligations.KgenaGeneratesAllBanks := by
  refine ⟨fun s hb => ?_, fun s => exec_key_busy generates_kgena_ne_nil⟩
  have hg := generates_kgena_ne_nil
  have fa := s.accepted_spec .kgena
  have fc := keysGenerated_completed_accepted (s := s) hg
  refine ⟨_, _, exec_key hg hb, complete_accepted_key hg, fa.cmd, fa.key, fa.din, fa.dout,
    State.accepted_status_eq (get_kv_all s false), (State.completed_spec _ _).cmd.trans fa.cmd, fc.key, fc.din, fc.dout,
    fc.status_eq (get_kv_all s true), PerSlot.ext_get fun k => (fc.bank k).trans ?_⟩
  rw [generates_kgena, if_pos k.mem_all]
  cases k <;> rfl

/-- A key command of an idle core goes on, issued and completed. -/
theorem exists_runCommand_key (hg : i.generates ≠ []) (hb : s.status.busy = false) :
    ∃ u, runCommand i s = .next u ∧ KeysGenerated s i.generates u :=
  ⟨_, runCommand_accepted (Instr.isOperation_of_generates hg) hb (by simp [Instr.needs_of_generates hg]),
    keysGenerated_completed_accepted hg⟩

/-- Settles O33: the banks of `KGEN1`, `KGEN2` and `KGEN3` in a row are those of `KGENA`. -/
theorem kgenaIsThreeSingleGenerations : Obligations.KgenaIsThreeSingleGenerations := by
  intro s hb
  obtain ⟨s1, h1, f1⟩ := exists_runCommand_key (i := .kgen1) (by decide) hb
  obtain ⟨s2, h2, f2⟩ := exists_runCommand_key (i := .kgen2) (by decide) f1.busy
  obtain ⟨s3, h3, f3⟩ := exists_runCommand_key (i := .kgen3) (by decide) f2.busy
  obtain ⟨t, ht, ft⟩ := exists_runCommand_key generates_kgena_ne_nil hb
  have f : KeysGenerated s Instr.kgena.generates s3 := (f1.trans f2).trans f3
  exact ⟨s1, s2, s3, t, h1, h2, h3, ht, ft.key.trans f.key.symm, ft.din.trans f.din.symm, ft.dout.trans f.dout.symm,
    ft.ks_unique f, ft.status_unique f⟩

end Sys2Proof.Machine
end

section
/-! SUPPORT. The Triple-DES Composer (spec/43_tdes.md R170 to R178): its cipher as three passes of DES, its two commands,
and the sequence of single commands that R178 sets beside each of them. -/

namespace Sys2Proof.Machine

/-! ### Three passes of DES -/

/-- R171, with the three schedules by name. -/
theorem tdesEnc_mk (B : Block) (S1 S2 S3 : KeySchedule) :
    tdesEnc B ⟨S1, S2, S3⟩ = desEnc (desDec (desEnc B S1) S2) S3 := rfl

/-- R172, with the three schedules by name. -/
theorem tdesDec_mk (B : Block) (S1 S2 S3 : KeySchedule) :
    tdesDec B ⟨S1, S2, S3⟩ = desDec (desEnc (desDec B S3) S2) S1 := rfl

/-- Settles O23: the passes of one direction undo those of the other, the last one first. -/
theorem tripleDesDecryptionInvertsEncryption : Obligations.TripleDesDecryptionInvertsEncryption := by
  rintro B ⟨S1, S2, S3⟩
  simp only [tdesEnc_mk, tdesDec_mk, desDec_desEnc, desEnc_desDec, and_self]

/-- Settles O24: the second pass undoes the first (R176). -/
theorem tripleDesWithEqualKeysIsDes : Obligations.TripleDesWithEqualKeysIsDes := fun B S =>
  ⟨by rw [tdesEnc_mk, desDec_desEnc], by rw [tdesDec_mk, desEnc_desDec]⟩

/-! ### `TDESE` and `TDESD` -/

section Commands

variable {s : State} {i : Instr}

/-- The command `i` runs the cipher `f` with all three banks. -/
structure TripleCipher (i : Instr) (f : Block → TripleKeySet → Block) : Prop where
  needs : i.needs = Slot.all
  cipher : ∀ B S, i.cipher B S = some (f B S)

theorem tripleCipher_tdese : TripleCipher .tdese tdesEnc := ⟨rfl, fun _ _ => rfl⟩

theorem tripleCipher_tdesd : TripleCipher .tdesd tdesDec := ⟨rfl, fun _ _ => rfl⟩

namespace TripleCipher

variable {f : Block → TripleKeySet → Block}

theorem isCipherByte (h : TripleCipher i f) : isCipherByte (encode i) = true :=
  Instr.isCipherByte_of_needs_ne_nil (by simp [h.needs, Slot.all])

theorem isOperation (h : TripleCipher i f) : i.isOperation = true := Instr.isOperation_of_isCipherByte h.isCipherByte

theorem mem_needs (h : TripleCipher i f) (k : Slot) : k ∈ i.needs := h.needs ▸ k.mem_all

theorem exec_valid (h : TripleCipher i f) (hb : s.status.busy = false) (hv : ∀ k, s.valid k = true) :
    exec i s = .next (s.accept (encode i)) := exec_cipher h.isCipherByte hb fun k _ => hv k

theorem runCommand_valid (h : TripleCipher i f) (hb : s.status.busy = false) (hv : ∀ k, s.valid k = true) :
    runCommand i s = .next ((s.accept (encode i)).setDout (f s.dinBlock s.ks)).finish :=
  runCommand_cipher (h.cipher _ _) hb fun k _ => hv k

/-- The refusal in the busy window, as one record update. -/
theorem exec_busy (h : TripleCipher i f) (hb : s.status.busy = true) :
    exec i s = .next { s with status := { s.status with
      err := if s.status.err = .none then .busy else s.status.err } } := by
  have hi : i ≠ .srst := by
    rintro rfl
    exact absurd h.isOperation (by decide)
  rw [Machine.exec_busy hi hb, State.refuse_eq]

/-- The refusal for a bank that is not valid, as one record update. -/
theorem exec_invalid (h : TripleCipher i f) {k : Slot} (hb : s.status.busy = false) (hv : s.valid k = false) :
    exec i s = .next { s with status := { s.status with
      err := if s.status.err = .none then .noKey else s.status.err } } := by
  rw [exec_noKey h.isOperation hb (h.mem_needs k) hv, State.refuse_eq]

end TripleCipher

end Commands

/-- Settles O36: `TDESE` is the triple cipher `tdes_enc`. -/
theorem tdeseEncryptsDinToDout : Obligations.TdeseEncryptsDinToDout :=
  ⟨fun _ hb hv => ⟨tripleCipher_tdese.exec_valid hb hv, tripleCipher_tdese.runCommand_valid hb hv⟩,
    fun _ => tripleCipher_tdese.exec_busy, fun _ _ => tripleCipher_tdese.exec_invalid, tdesEnc_mk⟩

/-- Settles O37: `TDESD` is the triple cipher `tdes_dec`. -/
theorem tdesdDecryptsDinToDout : Obligations.TdesdDecryptsDinToDout :=
  ⟨fun _ hb hv => ⟨tripleCipher_tdesd.exec_valid hb hv, tripleCipher_tdesd.runCommand_valid hb hv⟩,
    fun _ => tripleCipher_tdesd.exec_busy, fun _ _ => tripleCipher_tdesd.exec_invalid, tdesDec_mk⟩

/-! ### The sequence of single commands (R178) -/

section Sequence

variable {s : State} {i i1 i2 i3 : Instr} {a b c : Slot} {f1 f2 f3 : Block → KeySchedule → Block}
  {f : Block → TripleKeySet → Block}

/-- Copied to `DIN`, the block of the pass before is the input of the next pass. -/
theorem SingleCipher.runCommand_copyOut {V : Block} (h : SingleCipher i a f1) (hb : s.status.busy = false)
    (hv : s.valid a = true) (hout : s.dout = bytesOfBlock V) :
    runCommand i s.copyOut = .next ((s.copyOut.accept (encode i)).setDout (f1 V (s.bank a))).finish := by
  have hin : s.copyOut.dinBlock = V := by simp [State.dinBlock, hout]
  rw [h.runCommand_valid (s := s.copyOut) hb hv, hin]
  rfl

/-- A triple cipher that composes three single ones leaves the `DOUT` of their commands in a row. -/
theorem TripleCipher.exists_singleCommands (h : TripleCipher i f) (h1 : SingleCipher i1 a f1)
    (h2 : SingleCipher i2 b f2) (h3 : SingleCipher i3 c f3)
    (hf : ∀ B S, f B S = f3 (f2 (f1 B (S.get a)) (S.get b)) (S.get c))
    (hb : s.status.busy = false) (hv : ∀ k, s.valid k = true) :
    ∃ s1 s2 s3 t, runCommand i1 s = .next s1 ∧ runCommand i2 s1.copyOut = .next s2 ∧
      runCommand i3 s2.copyOut = .next s3 ∧ runCommand i s = .next t ∧
      t.dout = s3.dout ∧ t.din = s.din ∧ s3.din = s2.dout :=
  ⟨_, _, _, _, h1.runCommand_valid hb (hv a), h2.runCommand_copyOut rfl (hv b) rfl,
    h3.runCommand_copyOut rfl (hv c) rfl, h.runCommand_valid hb hv, congrArg bytesOfBlock (hf _ _), rfl, rfl⟩

end Sequence

/-- Settles O25: each Triple-DES command composes the ciphers of its sequence (R171, R172). -/
theorem tripleDesIsThreeSingleCommands : Obligations.TripleDesIsThreeSingleCommands := fun _ hb hv =>
  ⟨tripleCipher_tdese.exists_singleCommands (singleCipher_dese .k1) (singleCipher_desd .k2) (singleCipher_dese .k3)
      (fun _ _ => rfl) hb hv,
    tripleCipher_tdesd.exists_singleCommands (singleCipher_desd .k3) (singleCipher_dese .k2) (singleCipher_desd .k1)
      (fun _ _ => rfl) hb hv⟩

end Sys2Proof.Machine
end

section
/-! PROOF. The system command `CLRE` (spec/44_control.md R186). -/

namespace Sys2Proof.Machine

/-- `CLRE` with `BUSY = 0` (R186). -/
theorem exec_clre_idle {s : State} (hb : s.status.busy = false) : exec .clre s = .next s.clearErr := by
  rw [exec, execClre, if_neg (by simp [hb])]

/-- `CLRE` with `BUSY = 1`: the refusal `ERR_BUSY` (R186, R203), as one record update. -/
theorem exec_clre_busy {s : State} (hb : s.status.busy = true) : exec .clre s = .next { s with status := { s.status with
    err := if s.status.err = .none then .busy else s.status.err } } := by
  rw [exec_busy (by decide) hb, State.refuse_eq]

/-- Clearing `ERR` clears bits 7:5 of `STATUS` and keeps the others (spec/10_state.md R27). -/
theorem Status.clearErr_byte (st : Status) : st.clearErr.byte = st.byte &&& 0x1F#8 := by
  obtain ⟨busy, done, ⟨k1, k2, k3⟩, err⟩ := st
  cases err <;> decide +revert

/-- Settles O27: a `STATUS` of 0x40 has `BUSY = 0`, and no bit set but those of `ERR`. -/
theorem clearErrorCommand : Obligations.ClearErrorCommand := by
  refine ⟨fun s => exec_clre_idle, fun s => exec_clre_busy, fun s t hbyte ht => ?_⟩
  have hb : s.status.busy = false := by
    obtain ⟨layout, -⟩ := statusByteLayout
    obtain ⟨bit0, -⟩ := layout s
    rw [← bit0, memRead_status, hbyte]
    decide
  rw [exec_clre_idle hb] at ht
  cases ht
  rw [State.clearErr_status, Status.clearErr_byte, hbyte]
  decide

end Sys2Proof.Machine
end

section
/-! PROOF. Refusals and the tests that lead to them (spec/60_exceptions.md R200 to R209): `ERR` records the first code,
nothing that the core does depends on it, and no run of the protocol stops. -/

namespace Sys2Proof.Machine

variable {s t : State} {u : Turn} {c : Byte}

/-! ### The effect of a refusal -/

/-- Settles O28: both branches of `recordErr` (R203). -/
theorem refusalRecordsFirstCode : Obligations.RefusalRecordsFirstCode := by
  intro s c
  split
  case isTrue h => rw [State.refuse, Status.recordErr_of_none h]
  case isFalse h => rw [State.refuse, Status.recordErr, if_neg h]

/-- Settles O45: the writes that R207 refuses, with the refusal as one record update. -/
theorem busyWindowRefusesWrites : Obligations.BusyWindowRefusesWrites := fun s _ _ hb h =>
  (turnStep_write_busy hb h).trans (congrArg Host.Outcome.next (s.refuse_eq .busy))

/-! ### The tests of `issue` -/

theorem issue_of_effect (h : Effect s (.host (.write Config.cmdOffset c)) t) : issue c s = .next t :=
  turnStep_of_effect h

/-- Settles O30: each test of R208 leads to one effect of the write of the byte to `CMD`. -/
theorem issueTestsInOrder : Obligations.IssueTestsInOrder := by
  refine fun c s => ⟨?_, fun hc hb => issue_of_effect (.refusedBusy _ c hb (.inr ⟨rfl, hc⟩)),
    fun hb => ⟨?_, fun hd => issue_of_effect (.refusedIllegal c hb hd), fun i hd ho => ?_⟩⟩
  · rintro rfl
    exact issue_of_effect (.reset _ rfl)
  · rintro rfl
    exact issue_of_effect (.errorCleared hb)
  · obtain rfl := encode_of_decode c i hd
    refine ⟨fun ⟨k, hk, hv⟩ => issue_of_effect (.refusedNoKey i k ho hb hk hv), fun hv => ?_⟩
    have f := s.accepted_spec i
    exact ⟨_, issue_of_effect (.accepted i ho hb hv), f.cmd, f.busy, f.done, f.err, f.key, f.din, f.dout,
      fun k => ⟨fun hk => (f.valid k).trans (if_pos hk), fun hk => (State.accepted_of_not_generates hk).symm⟩⟩

/-! ### `ERR` gates nothing -/

/-- The state with another value of `ERR`. -/
def State.withErr (s : State) (e : ErrCode) : State := { s with status := { s.status with err := e } }

/-- Acceptance neither reads nor writes `ERR`. -/
theorem State.accepted_withErr (s : State) (e : ErrCode) (i : Instr) :
    (s.withErr e).accepted i = (s.accepted i).withErr e := by
  cases i <;> rfl

/-- Completion neither reads nor writes `ERR`. -/
theorem State.completed_withErr (s : State) (e : ErrCode) (i : Instr) :
    (s.withErr e).completed i = (s.completed i).withErr e := by
  cases i <;> rfl

/-- The two states have the same registers but for `ERR`. -/
structure SameButErr (s t : State) : Prop where
  key : t.key = s.key
  din : t.din = s.din
  dout : t.dout = s.dout
  ks : t.ks = s.ks
  cmd : t.cmd = s.cmd
  busy : t.status.busy = s.status.busy
  done : t.status.done = s.status.done
  kv : t.status.kv = s.status.kv

namespace SameButErr

variable (s) (e : ErrCode)

theorem withErr : SameButErr s (s.withErr e) := ⟨rfl, rfl, rfl, rfl, rfl, rfl, rfl, rfl⟩

theorem hostRead (a : Offset) : SameButErr (Machine.hostRead a s) (Machine.hostRead a (s.withErr e)) :=
  ⟨rfl, rfl, rfl, rfl, rfl, rfl, rfl, rfl⟩

/-- A refusal, whether or not one of the two states has a code recorded already. -/
theorem refuse (c : ErrCode) : SameButErr (s.refuse c) ((s.withErr e).refuse c) := by
  rw [State.refuse_eq, State.refuse_eq]
  exact ⟨rfl, rfl, rfl, rfl, rfl, rfl, rfl, rfl⟩

theorem accepted (i : Instr) : SameButErr (s.accepted i) ((s.withErr e).accepted i) :=
  s.accepted_withErr e i ▸ withErr (s.accepted i) e

theorem completed (i : Instr) : SameButErr (s.completed i) ((s.withErr e).completed i) :=
  s.completed_withErr e i ▸ withErr (s.completed i) e

end SameButErr

/-- No effect has a condition on `ERR`, so the turn has the same effect whatever `ERR` holds. -/
theorem Effect.exists_withErr (h : Effect s u t) (e : ErrCode) :
    ∃ t₂, Effect (s.withErr e) u t₂ ∧ SameButErr t t₂ := by
  cases h with
  | read a => exact ⟨_, .read a, .hostRead s e a⟩
  | refusedBusy a v hb hw => exact ⟨_, .refusedBusy a v hb hw, .refuse s e _⟩
  | refusedIllegal v hb hd => exact ⟨_, .refusedIllegal v hb hd, .refuse s e _⟩
  | refusedNoKey i k ho hb hk hv => exact ⟨_, .refusedNoKey i k ho hb hk hv, .refuse s e _⟩
  | ignored a v hlt ha => exact ⟨_, .ignored a v hlt ha, .withErr s e⟩
  | keyWritten a v hb hle => exact ⟨_, .keyWritten a v hb hle, .withErr _ e⟩
  | dinWritten a v hb hlt hle => exact ⟨_, .dinWritten a v hb hlt hle, .withErr _ e⟩
  | errorCleared hb => exact ⟨_, .errorCleared hb, .withErr _ _⟩
  | reset _ hr => exact ⟨_, .reset u hr, .withErr _ _⟩
  | accepted i ho hb hv => exact ⟨_, .accepted i ho hb hv, .accepted s e i⟩
  | completed i ho hd hb => exact ⟨_, .completed i ho hd hb, .completed s e i⟩
  | idle hb => exact ⟨_, .idle hb, .withErr s e⟩

/-- Settles O29: the turn has the same effect on two states that differ in `ERR` alone. -/
theorem errGatesNothing : Obligations.ErrGatesNothing := by
  intro u s t e h
  obtain ⟨t₂, he, f⟩ := (turnStep_effect s t u h).exists_withErr e
  exact ⟨t₂, turnStep_of_effect he, f.key, f.din, f.dout, f.cmd, f.busy, f.done, f.kv,
    fun k _ => State.bank_congr f.ks k⟩

/-! ### A run of the protocol never stops -/

/-- The engine's turn goes on because `CMD` holds an operation command while `BUSY = 1` (R236). -/
theorem ProtocolInv.engineTurn_goesOn (h : ProtocolInv s) : goesOn (engineTurn s) := by
  cases hb : s.status.busy with
  | false => exact ⟨s, engineTurn_idle hb⟩
  | true =>
    obtain ⟨i, hd, ho⟩ := h.holdsOperation (.inl hb)
    exact ⟨s.completed i, (engineTurn_busy hb).trans (complete_of_decode hd ho)⟩

theorem ProtocolInv.turnStep_goesOn (h : ProtocolInv s) (u : Turn) : goesOn (turnStep u s) := by
  cases u with
  | engine => exact h.engineTurn_goesOn
  | host op =>
    obtain ⟨t, ht, -⟩ := hostStep_spec s op
    exact ⟨t, ht⟩

theorem ProtocolInv.step_goesOn (h : ProtocolInv s) : goesOn (step s) :=
  step_eq s ▸ (h.of_keepsCommand s.popTurn_keepsCommand).turnStep_goesOn s.nextTurn

theorem ProtocolInv.run_goesOn (n : Nat) (h : ProtocolInv s) : goesOn (run n s) := by
  induction n generalizing s with
  | zero => exact ⟨s, run_zero s⟩
  | succ n ih =>
    obtain ⟨t, ht⟩ := h.step_goesOn
    rw [run_succ_of_step n ht]
    exact ih (h.of_step ht)

/-- Settles O52: every step of the protocol goes on, to a state of the protocol. -/
theorem protocolStepsGoOn : Obligations.ProtocolStepsGoOn := ⟨fun _ h => h.step_goesOn, fun n _ h => h.run_goesOn n⟩

end Sys2Proof.Machine
end

section
/-! SUPPORT. Progress (spec/70_reset_and_hazards.md R237): in the busy window the host's turns are used up and the pending
command is kept, until the engine's turn completes it. -/

namespace Sys2Proof.Machine

variable {s t : State}

/-! ### One turn -/

/-- The turns to come are left as they are by every turn: `step` alone takes one away. -/
theorem Effect.turns_eq {u : Turn} (h : Effect s u t) : t.turns = s.turns := by
  cases h with
  | accepted i => exact (s.accepted_spec i).turns
  | completed i => exact (s.completed_spec i).turns
  | _ => rfl

/-- In the busy window a turn of the host that is no reset is a read, a refused write or a write that does nothing. -/
theorem Effect.keepsCommand_of_host_busy {op : HostOp} (h : Effect s (.host op) t) (hb : s.status.busy = true)
    (hr : (Turn.host op).resets = false) : KeepsCommand s t := by
  cases h with
  | read a => exact hostRead_keepsCommand s a
  | refusedBusy => exact s.refuse_keepsCommand _
  | ignored => exact .refl s
  | reset _ hr' => exact absurd hr' (ne_true_of_eq_false hr)
  | refusedIllegal _ hi | refusedNoKey _ _ _ hi | keyWritten _ _ hi | dinWritten _ _ hi | errorCleared hi
  | accepted _ _ hi => exact absurd hb (ne_true_of_eq_false hi)

/-- Such a turn goes on, and the same command is pending after it. -/
theorem exists_step_host_busy {op : HostOp} {us : List Turn} (ht : s.turns = .host op :: us)
    (hb : s.status.busy = true) (hr : (Turn.host op).resets = false) :
    ∃ t, step s = .next t ∧ t.status.busy = true ∧ t.cmd = s.cmd ∧ t.turns = us := by
  obtain ⟨t, hs, he⟩ := hostStep_spec (s.setTurns us) op
  have k := he.keepsCommand_of_host_busy hb hr
  refine ⟨t, ?_, k.busy.trans hb, k.cmd, he.turns_eq⟩
  rw [step, ht]
  exact hs

/-! ### Completion within a number of steps -/

/-- Within `n` steps, every one of which goes on, the command in `CMD` has completed. -/
def CompletesWithin (n : Nat) (s : State) : Prop :=
  ∃ m t, m ≤ n ∧ run m s = .next t ∧ t.status.busy = false ∧ t.status.done = true ∧ t.cmd = s.cmd

/-- The engine's turn, at the latest when no turn is left, completes the pending command. -/
theorem completesWithin_of_engine {i : Instr} {n : Nat} (hn : s.nextTurn = .engine) (hb : s.status.busy = true)
    (hd : decode s.cmd = .command i) (ho : i.isOperation = true) : CompletesWithin (n + 1) s := by
  have hs : step s = .next (s.popTurn.completed i) := by
    rw [step_eq, hn]
    exact turnStep_of_effect (.completed i ho hd hb)
  have f := s.popTurn.completed_spec i
  exact ⟨1, _, Nat.le_add_left 1 n, run_succ_of_step 0 hs, f.busy, f.done, f.cmd⟩

theorem CompletesWithin.of_step {n : Nat} (h : CompletesWithin n t) (hs : step s = .next t) (hc : t.cmd = s.cmd) :
    CompletesWithin (n + 1) s := by
  obtain ⟨m, u, hm, hr, hb, hd, hu⟩ := h
  exact ⟨m + 1, u, Nat.succ_le_succ hm, (run_succ_of_step m hs).trans hr, hb, hd, hu.trans hc⟩

theorem completesWithin_of_busy {i : Instr} {us : List Turn} (ho : i.isOperation = true) (ht : s.turns = us)
    (hb : s.status.busy = true) (hd : decode s.cmd = .command i) (hr : ∀ u ∈ us, u.resets = false) :
    CompletesWithin (us.length + 1) s := by
  induction us generalizing s with
  | nil => exact completesWithin_of_engine (by rw [State.nextTurn, ht]; rfl) hb hd ho
  | cons u us ih =>
    obtain ⟨hu, hus⟩ := List.forall_mem_cons.mp hr
    cases u with
    | engine => exact completesWithin_of_engine (by rw [State.nextTurn, ht]; rfl) hb hd ho
    | host op =>
      obtain ⟨t, hs, htb, htc, htu⟩ := exists_step_host_busy ht hb hu
      exact (ih htu htb (htc ▸ hd) hus).of_step hs htc

/-- Settles O59, by induction on the turns to come. -/
theorem pendingOperationEventuallyCompletes : Obligations.PendingOperationEventuallyCompletes :=
  fun _ _ hb hd ho hr => completesWithin_of_busy ho rfl hb hd hr

end Sys2Proof.Machine
end
